-- ==== Sys2Proof/Word.lean ====
section
/-!
DEFINITION. The two bit-vector types of the ports: a 64-bit register value and a 5-bit operation code.
-/

namespace Sys2Proof

/-- A 64-bit port value, the spec's Register64 (10_state.md R21). -/
abbrev Word := BitVec 64

/-- A 5-bit operation code, the value on port `OP` (10_state.md R23, 30_encoding.md R50). -/
abbrev OpCode := BitVec 5

end Sys2Proof
end

