-- ==== Sys2Proof/Syntax.lean ====
section
/-!
DEFINITION. The 19 operations (00_scope.md R2), the arithmetic kind and the lane width each one tags
(30_encoding.md R50 to R52), and the spelling of the mnemonics (30_encoding.md R57).
An operation carries no operand field: its operands are the ports `A` and `B` (30_encoding.md R53).
-/

namespace Sys2Proof

/-- The arithmetic kind, named by the mnemonic's leading letters (30_encoding.md R52). -/
inductive Kind where
  /-- `PADD`, wrapping add. -/
  | add
  /-- `PADDS`, saturating add. -/
  | adds
  /-- `PINC`, wrapping increment. -/
  | inc
  /-- `PINCS`, saturating increment. -/
  | incs
  /-- `PMULL`, multiply. -/
  | mull
deriving DecidableEq, Repr

/-- The lane width, named by the mnemonic's last letter (30_encoding.md R51). -/
inductive Width where
  /-- `B`, 8-bit lanes. -/
  | b
  /-- `W`, 16-bit lanes. -/
  | w
  /-- `D`, 32-bit lanes. -/
  | d
  /-- `Q`, one 64-bit lane. -/
  | q
deriving DecidableEq, Repr

/-- The lane width `W` in bits (30_encoding.md R51). -/
def Width.bits : Width → Nat
  | .b => 8
  | .w => 16
  | .d => 32
  | .q => 64

/-- The 19 operations, one constructor per row of the opcode table (30_encoding.md R54). There is no `pmullq`
(42_multiply.md R126). -/
inductive Instr where
  /-- PADDB, 40_add.md R83. -/
  | paddb
  /-- PADDW, 40_add.md R84. -/
  | paddw
  /-- PADDD, 40_add.md R85. -/
  | paddd
  /-- PADDQ, 40_add.md R86. -/
  | paddq
  /-- PADDSB, 40_add.md R87. -/
  | paddsb
  /-- PADDSW, 40_add.md R88. -/
  | paddsw
  /-- PADDSD, 40_add.md R89. -/
  | paddsd
  /-- PADDSQ, 40_add.md R90. -/
  | paddsq
  /-- PINCB, 41_increment.md R103. -/
  | pincb
  /-- PINCW, 41_increment.md R104. -/
  | pincw
  /-- PINCD, 41_increment.md R105. -/
  | pincd
  /-- PINCQ, 41_increment.md R106. -/
  | pincq
  /-- PINCSB, 41_increment.md R107. -/
  | pincsb
  /-- PINCSW, 41_increment.md R108. -/
  | pincsw
  /-- PINCSD, 41_increment.md R109. -/
  | pincsd
  /-- PINCSQ, 41_increment.md R110. -/
  | pincsq
  /-- PMULLB, 42_multiply.md R123. -/
  | pmullb
  /-- PMULLW, 42_multiply.md R124. -/
  | pmullw
  /-- PMULLD, 42_multiply.md R125. -/
  | pmulld
deriving DecidableEq, Repr

namespace Instr

/-- The 19 operations in the order of their codes (30_encoding.md R54). -/
def all : List Instr :=
  [.paddb, .paddw, .paddd, .paddq, .paddsb, .paddsw, .paddsd, .paddsq,
   .pincb, .pincw, .pincd, .pincq, .pincsb, .pincsw, .pincsd, .pincsq,
   .pmullb, .pmullw, .pmulld]

/-- The arithmetic kind the operation tags (00_scope.md R2, 30_encoding.md R54). -/
def kind : Instr → Kind
  | paddb | paddw | paddd | paddq => .add
  | paddsb | paddsw | paddsd | paddsq => .adds
  | pincb | pincw | pincd | pincq => .inc
  | pincsb | pincsw | pincsd | pincsq => .incs
  | pmullb | pmullw | pmulld => .mull

/-- The lane width the operation tags (00_scope.md R2, 30_encoding.md R54). -/
def width : Instr → Width
  | paddb | paddsb | pincb | pincsb | pmullb => .b
  | paddw | paddsw | pincw | pincsw | pmullw => .w
  | paddd | paddsd | pincd | pincsd | pmulld => .d
  | paddq | paddsq | pincq | pincsq => .q

end Instr

/-- Whether a kind returns two registers: the increment family does, every other kind returns one
(30_encoding.md R50 (c), R62). -/
def Kind.returnsTwo : Kind → Bool
  | .inc | .incs => true
  | .add | .adds | .mull => false

/-- The letters a kind gives the mnemonic (30_encoding.md R57). -/
def Kind.stem : Kind → String
  | .add => "PADD"
  | .adds => "PADDS"
  | .inc => "PINC"
  | .incs => "PINCS"
  | .mull => "PMULL"

/-- The letter a width gives the mnemonic (30_encoding.md R57). -/
def Width.suffix : Width → String
  | .b => "B"
  | .w => "W"
  | .d => "D"
  | .q => "Q"

/-- The mnemonic: the kind's letters followed by the width's letter, upper case (30_encoding.md R57). -/
def Instr.mnemonic (i : Instr) : String := i.kind.stem ++ i.width.suffix

end Sys2Proof
end

