-- ==== Sys2Proof/WellFormed.lean ====
section
/-!
DEFINITION. Well-formedness. The one combination of a kind and a width that names no operation is the
multiply at width `Q` (00_scope.md R2, 42_multiply.md R126); every operation of `Instr` is well formed.
-/

namespace Sys2Proof

/-- A kind and a width name an operation unless they are the multiply and `Q` (00_scope.md R2). -/
def kindWidthOk : Kind → Width → Bool
  | .mull, .q => false
  | _, _ => true

/-- The operation's kind and width name an operation. -/
def Instr.wellFormed (i : Instr) : Bool := kindWidthOk i.kind i.width

end Sys2Proof
end

