-- ==== Sys2Proof/Decode.lean ====
section
/-!
DEFINITION. The decoder of port `OP` by the opcode map of 30_encoding.md R54, the encoder by the two fields of
R50 to R52, and the map between mnemonics and codes (R57, R64).
-/

namespace Sys2Proof

/-- Why a code names no operation (30_encoding.md R55). -/
inductive DecodeError where
  /-- 0x13: the slot of PMULLQ, which does not exist (42_multiply.md R126). -/
  | noQMultiply
  /-- 0x14 to 0x1F: `KIND` 101, 110 or 111 names no kind (30_encoding.md R52). -/
  | unassignedKind
deriving DecidableEq, Repr

/-- The opcode map, one row per code (30_encoding.md R54). Every one of the 32 codes is an operation or illegal (R56). -/
def decode (op : OpCode) : Except DecodeError Instr :=
  match op.toNat with
  | 0x00 => .ok .paddb
  | 0x01 => .ok .paddw
  | 0x02 => .ok .paddd
  | 0x03 => .ok .paddq
  | 0x04 => .ok .paddsb
  | 0x05 => .ok .paddsw
  | 0x06 => .ok .paddsd
  | 0x07 => .ok .paddsq
  | 0x08 => .ok .pincb
  | 0x09 => .ok .pincw
  | 0x0A => .ok .pincd
  | 0x0B => .ok .pincq
  | 0x0C => .ok .pincsb
  | 0x0D => .ok .pincsw
  | 0x0E => .ok .pincsd
  | 0x0F => .ok .pincsq
  | 0x10 => .ok .pmullb
  | 0x11 => .ok .pmullw
  | 0x12 => .ok .pmulld
  | 0x13 => .error .noQMultiply
  | _ => .error .unassignedKind

/-- The `KIND` field's value (30_encoding.md R52). -/
def Kind.code : Kind → BitVec 3
  | .add => 0b000#3
  | .adds => 0b001#3
  | .inc => 0b010#3
  | .incs => 0b011#3
  | .mull => 0b100#3

/-- The `WIDTH` field's value (30_encoding.md R51). -/
def Width.code : Width → BitVec 2
  | .b => 0b00#2
  | .w => 0b01#2
  | .d => 0b10#2
  | .q => 0b11#2

/-- The code of an operation: `KIND` in `OP[4:2]`, `WIDTH` in `OP[1:0]` (30_encoding.md R50). -/
def encode (i : Instr) : OpCode := i.kind.code ++ i.width.code

/-- The kind a `KIND` field selects (30_encoding.md R52). -/
def Kind.ofCode (k : BitVec 3) : Option Kind :=
  match k.toNat with
  | 0 => some .add
  | 1 => some .adds
  | 2 => some .inc
  | 3 => some .incs
  | 4 => some .mull
  | _ => none

/-- The width a `WIDTH` field selects (30_encoding.md R51). -/
def Width.ofCode (w : BitVec 2) : Width :=
  match w.toNat with
  | 0 => .b
  | 1 => .w
  | 2 => .d
  | _ => .q

/-- Decode by fields, as 30_encoding.md R60 writes it: a legal kind and width, or none for an illegal code. -/
def decodeFields (op : OpCode) : Option (Kind × Width) :=
  let wd := Width.ofCode (op.extractLsb' 0 2)
  match Kind.ofCode (op.extractLsb' 2 3) with
  | none => none
  | some k => if kindWidthOk k wd then some (k, wd) else none

/-- The operation a mnemonic names, spelled exactly as 00_scope.md R2 spells it (30_encoding.md R57, R64). -/
def Instr.ofMnemonic (name : String) : Option Instr := Instr.all.find? fun i => i.mnemonic == name

/-- The code that stands in an opcode-table word. `OP` has five wires, and the table's mask 0x1F examines bits 4 to 0
only, so a bit above bit 4 reaches no port. DEDUCED, log entry 4. -/
def tableWordCode (w : Nat) : OpCode := BitVec.ofNat 5 w

/-- The instruction the decoder reads from a table word. Every code is 5 bits (30_encoding.md R50), so the row's
size in whole bytes, the first argument, decides nothing. -/
def decodeTableWord (_nbits w : Nat) : Option Instr := (decode (tableWordCode w)).toOption

end Sys2Proof
end

