-- ==== Sys2Proof/Machine/Operands.lean ====
section
/-!
DEFINITION. The lane views of a 64-bit value: the only operand assembly the hardware has (30_encoding.md R53).
Every rule reaches lanes through `lane` and `pack` alone (10_state.md R29), so the lane order is decided here.
-/

namespace Sys2Proof.Machine

/-- The number of lanes of width `W`, `L = 64/W` (00_scope.md R7, 10_state.md R28). -/
def laneCount (W : Nat) : Nat := 64 / W

/-- Lane `i` of width `W`: the W-bit field from bit `W*i` (10_state.md R29). Lane 0 is the least significant
(92_eei_decisions.md D4; log entry 6). -/
def lane (W : Nat) (x : Word) (i : Nat) : BitVec W := x.extractLsb' (W * i) W

/-- The first `n` lanes of `f`, each shifted to its place, or-ed together (10_state.md R30). -/
def packLanes (W : Nat) : (n : Nat) → (f : Nat → BitVec W) → Word
  | 0, _ => 0
  | n + 1, f => packLanes W n f ||| ((f n).setWidth 64 <<< (W * n))

/-- Lane composition, `pack_W` of the lanes `f 0` to `f (64/W - 1)` (10_state.md R30). -/
def pack (W : Nat) (f : Nat → BitVec W) : Word := packLanes W (laneCount W) f

/-- The value with 1 in every lane, `pack_W(1, ..., 1)` (41_increment.md R100, R101). -/
def oneInEveryLane (W : Nat) : Word := pack W fun _ => 1#W

end Sys2Proof.Machine
end

