-- ==== Sys2Proof/Machine/Flags.lean ====
section
/-!
DEFINITION. The saturation detect. The ALU writes no flag (10_state.md R35); the lane carry is an internal signal that
selects the clamp and reaches no port (40_add.md R81).
-/

namespace Sys2Proof.Machine

/-- The lane carry `c_i`: the exact sum of the two lanes does not fit the lane (40_add.md R81). -/
def laneCarry {W : Nat} (x y : BitVec W) : Bool := decide (2 ^ W ≤ x.toNat + y.toNat)

end Sys2Proof.Machine
end

