-- ==== Sys2Proof/Machine/State.lean ====
section
/-!
DEFINITION. The state of the machine: the values on the ALU's seven ports, and nothing else, because the ALU stores
nothing (10_state.md R20). The reasons a step can stop, and the state after reset.
-/

namespace Sys2Proof.Machine

/-- The values on the ports (10_state.md R21 to R27). The inputs are what the host drives. The outputs are fields of
their own; reset, driving the inputs and the step each leave them at `calc` of the inputs, so that they are that at every
moment (R39). Log entry 1. -/
structure State where
  /-- Input port `A` (R21). -/
  a : Word
  /-- Input port `B` (R22). -/
  b : Word
  /-- Input port `OP` (R23). -/
  op : OpCode
  /-- Output port `Y0`: the single result, or the result for `A` (R24). -/
  y0 : Word
  /-- Output port `Y1`: the result for `B` of the increment family, else 0 (R25). -/
  y1 : Word
  /-- Output port `TWO`: two results are present (R26). -/
  two : Bool
  /-- Output port `ILLEGAL`: the code on `OP` names no operation (R27). -/
  illegal : Bool
deriving DecidableEq, Repr

/-- Why a HOST PROGRAM ends in a fault. The ALU itself never faults: its step takes the illegal-operation outcome as
60_exceptions.md R141 describes it and goes on. -/
inductive Fault where
  /-- A host-program step drove a code that names no operation. Raised by the host-program layer, never by `step` or
  `exec` (30_encoding.md R58, 60_exceptions.md R141, 92_eei_decisions.md D7). Safe: the spec says the program ends there. -/
  | illegalOperation (op : OpCode)
deriving DecidableEq, Repr

/-- Why something given to the machine has no meaning. -/
inductive Refusal where
  /-- An operation whose arm of `exec` has no meaning yet. Raised by `exec` only; no arm raises it now. Safe. -/
  | notModelled (mnemonic : String)
  /-- A host-program step whose destinations do not fit the number of results of its operation (30_encoding.md R58
  writes no such step). Raised by the host-program layer. Safe: such a step is no program. Log entry 11. -/
  | malformedHostStep
  /-- A front-end call that leaves a required field empty (60_exceptions.md R142, 93_implementation_defined.md I4).
  Raised by the front-end call. Safe: such input never becomes an invocation. Log entry 8. -/
  | missingField
deriving DecidableEq, Repr

/-- The ports after reset. The ALU has no reset input and no state to reset (10_state.md R39, 70_reset_and_hazards.md
R160): the inputs hold whatever the host drives, here zero (DESIGN CHOICE, log entry 2), and the outputs are the function
`calc` of them, as R39 says. -/
def State.reset : State :=
  { a := 0, b := 0, op := 0, y0 := 0, y1 := 0, two := false, illegal := false }

end Sys2Proof.Machine
end

