-- ==== Sys2Proof/Machine/Ops.lean ====
section
/-!
DEFINITION. The shared operations: the per-lane primitives, the packed primitives over a whole port value, driving the
ports, and the one exception the ALU has.
-/

namespace Sys2Proof.Machine

/-- `(x + y) mod 2^W` (40_add.md R80). -/
def wrapAddLane {W : Nat} (x y : BitVec W) : BitVec W := BitVec.ofNat W (x.toNat + y.toNat)

/-- `2^W - 1` where the lane carries, else the exact sum (40_add.md R82). -/
def satAddLane {W : Nat} (x y : BitVec W) : BitVec W :=
  if laneCarry x y then BitVec.allOnes W else BitVec.ofNat W (x.toNat + y.toNat)

/-- `(x + 1) mod 2^W` (41_increment.md R100). -/
def wrapIncLane {W : Nat} (x : BitVec W) : BitVec W := BitVec.ofNat W (x.toNat + 1)

/-- A lane at `2^W - 1` stays, any other is incremented exactly (41_increment.md R101). -/
def satIncLane {W : Nat} (x : BitVec W) : BitVec W :=
  if x.toNat = 2 ^ W - 1 then BitVec.allOnes W else BitVec.ofNat W (x.toNat + 1)

/-- The exact product of two W-bit lanes, in `2W` bits (42_multiply.md R120; log entry 7). -/
def mulLane {W : Nat} (x y : BitVec W) : BitVec (2 * W) := BitVec.ofNat (2 * W) (x.toNat * y.toNat)

/-- Packed wrapping add, `wadd_W(a, b)` (40_add.md R80). -/
def wadd (W : Nat) (a b : Word) : Word := pack W fun i => wrapAddLane (lane W a i) (lane W b i)

/-- Packed saturating add, `sadd_W(a, b)` (40_add.md R82). -/
def sadd (W : Nat) (a b : Word) : Word := pack W fun i => satAddLane (lane W a i) (lane W b i)

/-- Packed wrapping increment, `winc_W(a)` (41_increment.md R100). -/
def winc (W : Nat) (a : Word) : Word := pack W fun i => wrapIncLane (lane W a i)

/-- Packed saturating increment, `sinc_W(a)` (41_increment.md R101). -/
def sinc (W : Nat) (a : Word) : Word := pack W fun i => satIncLane (lane W a i)

/-- Narrowing/widening multiply, `mull_W(a, b)`: result lane `j` of width `2W` is the product of the odd lanes `2j+1`
(42_multiply.md R120). -/
def mull (W : Nat) (a b : Word) : Word :=
  pack (2 * W) fun j => mulLane (lane W a (2 * j + 1)) (lane W b (2 * j + 1))

/-- The 64-bit multiply primitive, which no operation code selects (42_multiply.md R121; log entry 16). -/
def mull64 (a b : Word) : Word := BitVec.ofNat 64 (a.toNat * b.toNat)

/-- The values on the three input ports change; no output port does (00_scope.md R9). In the hardware the outputs follow in
the same moment (10_state.md R39), so that a host drives the inputs by `State.driveInputs`, never by this alone. -/
def State.setInputs (s : State) (a b : Word) (op : OpCode) : State :=
  { s with a := a, b := b, op := op }

/-- An invocation drives the four output ports and no input port (00_scope.md R9). -/
def State.driveOutputs (s : State) (y0 y1 : Word) (two illegal : Bool) : State :=
  { s with y0 := y0, y1 := y1, two := two, illegal := illegal }

/-- A one-result operation: `Y0 <- y; Y1 <- 0; TWO <- 0; ILLEGAL <- 0` (30_encoding.md R61, R62). -/
def State.driveOne (s : State) (y : Word) : State := s.driveOutputs y 0 false false

/-- A two-result operation: `Y0 <- ya; Y1 <- yb; TWO <- 1; ILLEGAL <- 0` (41_increment.md R102). -/
def State.driveTwo (s : State) (ya yb : Word) : State := s.driveOutputs ya yb true false

/-- Taking the ALU's one exception, `raise Illegal(OP)`: no result, constant outputs, nothing saved and nothing else
changed; there is no return from it (60_exceptions.md R141, R145, R146; log entry 5). -/
def State.raiseIllegal (s : State) : State := s.driveOutputs 0 0 false true

end Sys2Proof.Machine
end

