-- ==== Sys2Proof/Machine/Calc.lean ====
section
/-!
DEFINITION. The ALU's function `calc(A, B, OP)` as 30_encoding.md R60 and R61 write it, from the fields of the code, and
the source's tagged result (R62), and the host's driving of the inputs, on which the outputs are `calc` of them at once
(10_state.md R39). The step runs each operation by its own rule and does not use `calc`; that it drives what `calc` says is
a statement, not a definition.
-/

namespace Sys2Proof.Machine

/-- What one invocation drives on the four output ports (10_state.md R24 to R27). -/
structure Outputs where
  /-- `Y0`. -/
  y0 : Word
  /-- `Y1`. -/
  y1 : Word
  /-- `TWO`. -/
  two : Bool
  /-- `ILLEGAL`. -/
  illegal : Bool
deriving DecidableEq, Repr

/-- The source's CalculationResult: one register, or the ordered pair of two (00_scope.md R11, 30_encoding.md R62). -/
inductive CalculationResult where
  /-- One register. -/
  | one (r : Word)
  /-- The result for `A`, then the result for `B`. -/
  | two (ra rb : Word)
deriving DecidableEq, Repr

/-- The outputs as they stand on the ports. -/
def State.outputs (s : State) : Outputs := ⟨s.y0, s.y1, s.two, s.illegal⟩

/-- The tagged result: none where `ILLEGAL = 1`, else `TWO` is the tag (30_encoding.md R62, 60_exceptions.md R141). -/
def Outputs.result (o : Outputs) : Option CalculationResult :=
  if o.illegal then none else if o.two then some (.two o.y0 o.y1) else some (.one o.y0)

/-- `calc(A, B, OP)`, the source's `calculate`: the dispatch over the kind and the width (30_encoding.md R61). -/
def calculate (a b : Word) (op : OpCode) : Outputs :=
  match decodeFields op with
  | none => ⟨0, 0, false, true⟩
  | some (.add, wd) => ⟨wadd wd.bits a b, 0, false, false⟩
  | some (.adds, wd) => ⟨sadd wd.bits a b, 0, false, false⟩
  | some (.inc, wd) => ⟨winc wd.bits a, winc wd.bits b, true, false⟩
  | some (.incs, wd) => ⟨sinc wd.bits a, sinc wd.bits b, true, false⟩
  | some (.mull, wd) => ⟨mull wd.bits a b, 0, false, false⟩

/-- The output ports take the values `calc` gives for the values now on the input ports (10_state.md R39). -/
def State.settle (s : State) : State :=
  s.driveOutputs (calculate s.a s.b s.op).y0 (calculate s.a s.b s.op).y1
    (calculate s.a s.b s.op).two (calculate s.a s.b s.op).illegal

/-- The host drives the input ports (70_reset_and_hazards.md R165), and in the same moment the outputs are `calc` of them
(10_state.md R39, 70_reset_and_hazards.md R160; log entry 1). -/
def State.driveInputs (s : State) (a b : Word) (op : OpCode) : State := (s.setInputs a b op).settle

end Sys2Proof.Machine
end

