-- ==== Sys2Proof/Machine/Add.lean ====
section
/-!
DEFINITION. The add family (40_add.md): `Y0` is the packed sum of `A` and `B`, wrapping or saturating.
No operation writes a flag or raises anything.
-/

namespace Sys2Proof.Machine

/-- PADDB: packed wrapping add of eight 8-bit lanes (40_add.md R83). -/
def execPaddb (s : State) : Host.Outcome State Fault Refusal :=
  .next (s.driveOne (wadd 8 s.a s.b))

/-- PADDW: packed wrapping add of four 16-bit lanes (40_add.md R84). -/
def execPaddw (s : State) : Host.Outcome State Fault Refusal :=
  .next (s.driveOne (wadd 16 s.a s.b))

/-- PADDD: packed wrapping add of two 32-bit lanes (40_add.md R85). -/
def execPaddd (s : State) : Host.Outcome State Fault Refusal :=
  .next (s.driveOne (wadd 32 s.a s.b))

/-- PADDQ: wrapping add of one 64-bit lane (40_add.md R86). -/
def execPaddq (s : State) : Host.Outcome State Fault Refusal :=
  .next (s.driveOne (wadd 64 s.a s.b))

/-- PADDSB: packed unsigned saturating add of eight 8-bit lanes (40_add.md R87). -/
def execPaddsb (s : State) : Host.Outcome State Fault Refusal :=
  .next (s.driveOne (sadd 8 s.a s.b))

/-- PADDSW: packed unsigned saturating add of four 16-bit lanes (40_add.md R88). -/
def execPaddsw (s : State) : Host.Outcome State Fault Refusal :=
  .next (s.driveOne (sadd 16 s.a s.b))

/-- PADDSD: packed unsigned saturating add of two 32-bit lanes (40_add.md R89). -/
def execPaddsd (s : State) : Host.Outcome State Fault Refusal :=
  .next (s.driveOne (sadd 32 s.a s.b))

/-- PADDSQ: unsigned saturating add of one 64-bit lane (40_add.md R90). -/
def execPaddsq (s : State) : Host.Outcome State Fault Refusal :=
  .next (s.driveOne (sadd 64 s.a s.b))

end Sys2Proof.Machine
end

