-- ==== Sys2Proof/Machine/Increment.lean ====
section
/-!
DEFINITION. The increment family (41_increment.md): `Y0` is the incremented `A` and, separately, `Y1` the incremented `B`.
No operation writes a flag or raises anything.
-/

namespace Sys2Proof.Machine

/-- PINCB: packed wrapping increment, on `A` and on `B`, of eight 8-bit lanes (41_increment.md R103). -/
def execPincb (s : State) : Host.Outcome State Fault Refusal :=
  .next (s.driveTwo (winc 8 s.a) (winc 8 s.b))

/-- PINCW: packed wrapping increment, on `A` and on `B`, of four 16-bit lanes (41_increment.md R104). -/
def execPincw (s : State) : Host.Outcome State Fault Refusal :=
  .next (s.driveTwo (winc 16 s.a) (winc 16 s.b))

/-- PINCD: packed wrapping increment, on `A` and on `B`, of two 32-bit lanes (41_increment.md R105). -/
def execPincd (s : State) : Host.Outcome State Fault Refusal :=
  .next (s.driveTwo (winc 32 s.a) (winc 32 s.b))

/-- PINCQ: wrapping increment, on `A` and on `B`, of one 64-bit lane (41_increment.md R106). -/
def execPincq (s : State) : Host.Outcome State Fault Refusal :=
  .next (s.driveTwo (winc 64 s.a) (winc 64 s.b))

/-- PINCSB: packed saturating increment, on `A` and on `B`, of eight 8-bit lanes (41_increment.md R107). -/
def execPincsb (s : State) : Host.Outcome State Fault Refusal :=
  .next (s.driveTwo (sinc 8 s.a) (sinc 8 s.b))

/-- PINCSW: packed saturating increment, on `A` and on `B`, of four 16-bit lanes (41_increment.md R108). -/
def execPincsw (s : State) : Host.Outcome State Fault Refusal :=
  .next (s.driveTwo (sinc 16 s.a) (sinc 16 s.b))

/-- PINCSD: packed saturating increment, on `A` and on `B`, of two 32-bit lanes (41_increment.md R109). -/
def execPincsd (s : State) : Host.Outcome State Fault Refusal :=
  .next (s.driveTwo (sinc 32 s.a) (sinc 32 s.b))

/-- PINCSQ: saturating increment, on `A` and on `B`, of one 64-bit lane (41_increment.md R110). -/
def execPincsq (s : State) : Host.Outcome State Fault Refusal :=
  .next (s.driveTwo (sinc 64 s.a) (sinc 64 s.b))

end Sys2Proof.Machine
end

