-- ==== Sys2Proof/Machine/Multiply.lean ====
section
/-!
DEFINITION. The multiply family (42_multiply.md): `Y0` holds the exact products of the odd lanes of `A` and `B`.
No operation writes a flag or raises anything.
-/

namespace Sys2Proof.Machine

/-- PMULLB: product of the odd lanes among eight 8-bit lanes (42_multiply.md R123). -/
def execPmullb (s : State) : Host.Outcome State Fault Refusal :=
  .next (s.driveOne (mull 8 s.a s.b))

/-- PMULLW: product of the odd lanes among four 16-bit lanes (42_multiply.md R124). -/
def execPmullw (s : State) : Host.Outcome State Fault Refusal :=
  .next (s.driveOne (mull 16 s.a s.b))

/-- PMULLD: product of the odd lanes among two 32-bit lanes (42_multiply.md R125). -/
def execPmulld (s : State) : Host.Outcome State Fault Refusal :=
  .next (s.driveOne (mull 32 s.a s.b))

end Sys2Proof.Machine
end

