-- ==== Sys2Proof/Machine/Dispatch.lean ====
section
/-!
DEFINITION. The dispatch of an operation to its meaning, one arm per operation (30_encoding.md R61).
-/

namespace Sys2Proof.Machine

/-- One operation on the ports, by its own rule. -/
def exec (i : Instr) (s : State) : Host.Outcome State Fault Refusal :=
  match i with
  | .paddb => Sys2Proof.Machine.execPaddb s
  | .paddw => Sys2Proof.Machine.execPaddw s
  | .paddd => Sys2Proof.Machine.execPaddd s
  | .paddq => Sys2Proof.Machine.execPaddq s
  | .paddsb => Sys2Proof.Machine.execPaddsb s
  | .paddsw => Sys2Proof.Machine.execPaddsw s
  | .paddsd => Sys2Proof.Machine.execPaddsd s
  | .paddsq => Sys2Proof.Machine.execPaddsq s
  | .pincb => Sys2Proof.Machine.execPincb s
  | .pincw => Sys2Proof.Machine.execPincw s
  | .pincd => Sys2Proof.Machine.execPincd s
  | .pincq => Sys2Proof.Machine.execPincq s
  | .pincsb => Sys2Proof.Machine.execPincsb s
  | .pincsw => Sys2Proof.Machine.execPincsw s
  | .pincsd => Sys2Proof.Machine.execPincsd s
  | .pincsq => Sys2Proof.Machine.execPincsq s
  | .pmullb => Sys2Proof.Machine.execPmullb s
  | .pmullw => Sys2Proof.Machine.execPmullw s
  | .pmulld => Sys2Proof.Machine.execPmulld s

end Sys2Proof.Machine
end

