-- ==== Sys2Proof/Machine/Step.lean ====
section
/-!
DEFINITION. One invocation (10_state.md R20): decode `OP`, run the operation it names on the ports, or take the
illegal-operation outcome. There is no program counter and no fetch (10_state.md R34): the code is the one on `OP`.
-/

namespace Sys2Proof.Machine

/-- One atomic step from (`A`, `B`, `OP`) to (`Y0`, `Y1`, `TWO`, `ILLEGAL`) (30_encoding.md R61, 60_exceptions.md R141). -/
def step (s : State) : Host.Outcome State Fault Refusal :=
  match decode s.op with
  | .ok i => exec i s
  | .error _ => .next s.raiseIllegal

/-- The host drives port `OP` with the code in a table word; that is how an operation reaches the ALU (10_state.md R34).
No other input
port changes, and the outputs follow the inputs at once (R39). Log entries 1, 3 and 4. -/
def State.withFetchWord (s : State) (_nbits w : Nat) : State :=
  s.driveInputs s.a s.b (tableWordCode w)

end Sys2Proof.Machine
end

