-- ==== Sys2Proof/Config.lean ====
section
/-!
DEFINITION. The implementation parameters of 00_scope.md R7 and the values the spec leaves open.
A value the spec leaves open is an opaque constant: no proof can learn what it is.
-/

namespace Sys2Proof.Config

/-- Register width XLEN, fixed at 64 (00_scope.md R7). -/
def xlen : Nat := 64

/-- `FRONTEND_OMITTED_B`: what a front end drives on `B` when a user leaves the second register of an
increment operation empty (70_reset_and_hazards.md R166, 92_eei_decisions.md D14: OPEN). Log entry 8. -/
opaque frontendOmittedB : Word

/-- What host variable `h<n>` holds before anybody gives it a value. 30_encoding.md R58 says that each holds
a 64-bit value and does not say which. DESIGN CHOICE of form, log entry 9: a free value. -/
opaque hostVarStart : Nat → Word

end Sys2Proof.Config
end

