-- ==== Sys2Proof/Machine/HostInterface.lean ====
section
/-!
DEFINITION. What a host does with the ALU: one invocation, a sequence of them in the order it chooses, and the value a
front end drives on `B` when a user leaves that field empty (70_reset_and_hazards.md R165, R166). The host is not the ALU.
-/

namespace Sys2Proof.Machine

/-- The inputs of one invocation (20_memory.md R44). -/
structure Invocation where
  /-- The value for port `A`. -/
  a : Word
  /-- The value for port `B`. -/
  b : Word
  /-- The value for port `OP`. -/
  op : OpCode
deriving DecidableEq, Repr

/-- One interaction: drive the inputs, let the ALU step, which leaves the outputs for the host to sample (70_reset_and_hazards.md R165). -/
def invoke (s : State) (v : Invocation) : Host.Outcome State Fault Refusal :=
  step (s.driveInputs v.a v.b v.op)

/-- What a host samples over a sequence of invocations, in the order it issues them, one at a time (20_memory.md R46).
It stops where a step stops. -/
def sampleAll (s : State) : List Invocation → List Outputs
  | [] => []
  | v :: vs =>
    match invoke s v with
    | .next t => t.outputs :: sampleAll t vs
    | .fault _ => []
    | .refused _ => []

/-- What a front end drives on `B`: the second register, or `FRONTEND_OMITTED_B` where the user left it empty
(70_reset_and_hazards.md R166). -/
def frontEndB (b : Option Word) : Word := b.getD Config.frontendOmittedB

/-- A front-end call of an operation. An increment operation does not require the second register
(70_reset_and_hazards.md R166); any other empty field is a validation failure, which never becomes an invocation
(60_exceptions.md R142, 93_implementation_defined.md I4). -/
def frontEndCall (s : State) (i : Instr) (a b : Option Word) : Host.Outcome State Fault Refusal :=
  match a with
  | none => .refused .missingField
  | some va =>
    if b.isNone && !i.kind.returnsTwo then .refused .missingField
    else invoke s ⟨va, frontEndB b, encode i⟩

end Sys2Proof.Machine
end

