-- ==== Sys2Proof/Machine/Render.lean ====
section
/-!
DEFINITION. The host-side notation of a 64-bit value: exactly 16 upper-case hexadecimal digits, most significant first
(70_reset_and_hazards.md R168). It is no port of the ALU.
-/

namespace Sys2Proof.Machine

/-- The character of a nibble: `0` to `9`, then `A` to `F` (70_reset_and_hazards.md R168; log entry 18). -/
def hexDigit (n : BitVec 4) : Char :=
  match n.toNat with
  | 0 => '0'
  | 1 => '1'
  | 2 => '2'
  | 3 => '3'
  | 4 => '4'
  | 5 => '5'
  | 6 => '6'
  | 7 => '7'
  | 8 => '8'
  | 9 => '9'
  | 10 => 'A'
  | 11 => 'B'
  | 12 => 'C'
  | 13 => 'D'
  | 14 => 'E'
  | _ => 'F'

/-- Nibble `k` from the left, `x[63-4k : 60-4k]` (70_reset_and_hazards.md R168). -/
def nibbleFromLeft (x : Word) (k : Nat) : BitVec 4 := x.extractLsb' (60 - 4 * k) 4

/-- The 16 digits of a value, most significant first (70_reset_and_hazards.md R168). -/
def renderDigits (x : Word) : List Char := (List.range 16).map fun k => hexDigit (nibbleFromLeft x k)

/-- The rendered value (70_reset_and_hazards.md R168). -/
def render (x : Word) : String := String.ofList (renderDigits x)

/-- A code as the raw form of a host-program step writes it, two digits (30_encoding.md R58). -/
def renderCode (op : OpCode) : String :=
  String.ofList [hexDigit (op.extractLsb' 4 4), hexDigit (op.extractLsb' 0 4)]

end Sys2Proof.Machine
end

