-- ==== Sys2Proof/Machine/HostProgram.lean ====
section
/-!
DEFINITION. Host programs (30_encoding.md R57, R58): a straight-line list of steps over host variables `h0`, `h1`, ...
The host variables are the host's storage, not the ALU's (10_state.md R33), so they stand in HostState and not in State.
-/

namespace Sys2Proof.Machine

/-- An operand of a step: a 64-bit value or a host variable (30_encoding.md R57). -/
inductive Operand where
  /-- A value written in hex. -/
  | lit (v : Word)
  /-- Host variable `h<n>`. -/
  | var (n : Nat)
deriving DecidableEq, Repr

/-- One step of a host program (30_encoding.md R58). -/
inductive HostStep where
  /-- `hD <- MNEMONIC x, y`. -/
  | one (dest : Nat) (i : Instr) (x y : Operand)
  /-- `hD0, hD1 <- MNEMONIC x, y`. -/
  | two (dest0 dest1 : Nat) (i : Instr) (x y : Operand)
  /-- `hD <- OP=0xNN x, y`, the raw form. -/
  | raw (dest : Nat) (op : OpCode) (x y : Operand)
deriving DecidableEq, Repr

/-- The host and the ALU it drives. `vars` lists the variables that hold a value given to them, by rising number. -/
structure HostState where
  /-- The host variables that were given a value. -/
  vars : List (Nat × Word)
  /-- The ALU the host drives. -/
  alu : State
deriving DecidableEq, Repr

/-- The value of host variable `n`; one nobody gave a value holds an open one (log entry 9). -/
def readVar (n : Nat) : List (Nat × Word) → Word
  | [] => Config.hostVarStart n
  | (m, u) :: rest => if m = n then u else readVar n rest

/-- Give host variable `n` the value `v`, keeping the numbers rising. -/
def writeVar (n : Nat) (v : Word) : List (Nat × Word) → List (Nat × Word)
  | [] => [(n, v)]
  | (m, u) :: rest =>
    if n < m then (n, v) :: (m, u) :: rest
    else if n = m then (n, v) :: rest
    else (m, u) :: writeVar n v rest

/-- The variables' numbers rise strictly: the one canonical form. -/
def varsRise : List (Nat × Word) → Bool
  | (m, _) :: (k, w) :: rest => decide (m < k) && varsRise ((k, w) :: rest)
  | _ => true

/-- The value an operand presents (30_encoding.md R57). -/
def Operand.value (vars : List (Nat × Word)) : Operand → Word
  | .lit v => v
  | .var n => readVar n vars

/-- The code a step drives on `OP` (30_encoding.md R58, R64). -/
def HostStep.code : HostStep → OpCode
  | .one _ i _ _ => encode i
  | .two _ _ i _ _ => encode i
  | .raw _ op _ _ => op

/-- The two operands of a step. -/
def HostStep.operands : HostStep → Operand × Operand
  | .one _ _ x y => (x, y)
  | .two _ _ _ x y => (x, y)
  | .raw _ _ x y => (x, y)

/-- Store a sampled result where the step says: `Y0` into the one destination, or `Y0` and `Y1` into the two, in that
order (30_encoding.md R58; log entry 10). A result that does not fit the destinations is refused (log entry 11). -/
def HostStep.store (p : HostStep) (r : CalculationResult) (vars : List (Nat × Word)) : Option (List (Nat × Word)) :=
  match p, r with
  | .one d _ _ _, .one y => some (writeVar d y vars)
  | .raw d _ _ _, .one y => some (writeVar d y vars)
  | .two d0 d1 _ _ _, .two ya yb => some (writeVar d1 yb (writeVar d0 ya vars))
  | .one .., .two .. => none
  | .raw .., .two .. => none
  | .two .., .one .. => none

/-- The invocation a step issues: its inputs are read before anything is stored (30_encoding.md R58). -/
def HostStep.invocation (p : HostStep) (vars : List (Nat × Word)) : Invocation :=
  ⟨p.operands.1.value vars, p.operands.2.value vars, p.code⟩

/-- Run one step: read the operands, invoke the ALU, store the result. A step whose code is illegal stores nothing and
ends the program with a fault (30_encoding.md R58, 60_exceptions.md R141). -/
def hostStep (p : HostStep) (h : HostState) : Host.Outcome HostState Fault Refusal :=
  match invoke h.alu (p.invocation h.vars) with
  | .fault f => .fault f
  | .refused r => .refused r
  | .next t =>
    match t.outputs.result with
    | none => .fault (.illegalOperation t.op)
    | some r =>
      match p.store r h.vars with
      | none => .refused .malformedHostStep
      | some vars => .next ⟨vars, t⟩

/-- How a host program ends: every step done, or stopped at a numbered step with the variables as that step found them. -/
inductive ProgramEnd where
  /-- Every step is done. -/
  | done (h : HostState)
  /-- Step `k` faulted. -/
  | faulted (k : Nat) (vars : List (Nat × Word)) (f : Fault)
  /-- Step `k` was refused. -/
  | refused (k : Nat) (vars : List (Nat × Word)) (r : Refusal)
deriving DecidableEq, Repr

/-- Run a program whose first step has number `k` (30_encoding.md R58: a numbered straight-line list of steps). -/
def runProgram (k : Nat) (h : HostState) : List HostStep → ProgramEnd
  | [] => .done h
  | p :: ps =>
    match hostStep p h with
    | .next h' => runProgram (k + 1) h' ps
    | .fault f => .faulted k h.vars f
    | .refused r => .refused k h.vars r

/-- An operand as text (30_encoding.md R57). -/
def Operand.text : Operand → String
  | .lit v => "0x" ++ render v
  | .var n => "h" ++ toString n

/-- A step as text (30_encoding.md R57, R58). -/
def HostStep.text : HostStep → String
  | .one d i x y => "h" ++ toString d ++ " <- " ++ i.mnemonic ++ " " ++ x.text ++ ", " ++ y.text
  | .two d0 d1 i x y =>
    "h" ++ toString d0 ++ ", h" ++ toString d1 ++ " <- " ++ i.mnemonic ++ " " ++ x.text ++ ", " ++ y.text
  | .raw d op x y => "h" ++ toString d ++ " <- OP=0x" ++ renderCode op ++ " " ++ x.text ++ ", " ++ y.text

end Sys2Proof.Machine
end

