-- ==== Sys2Proof/Safety.lean ====
section
/-!
DEFINITION. The terms the statements use: bit fields as plain numbers (00_scope.md R8), what a one-result and a two-result
invocation leave, and what it means for the output ports to conform to the dispatch rule, said by arithmetic on the
numbers on the ports alone and by none of the model's own lane operations.
-/

namespace Sys2Proof.Machine

/-- `x[lo + n - 1 : lo]`, the field of `n` bits from bit `lo`, as an unsigned number (00_scope.md R8). -/
def field (x : Word) (lo n : Nat) : Nat := x.toNat / 2 ^ lo % 2 ^ n

/-- Lane `i` of width `W` as a number: the W-bit field from bit `W*i` (10_state.md R29). -/
def laneNum (W : Nat) (x : Word) (i : Nat) : Nat := field x (W * i) W

/-- An invocation leaves the input ports as the host drives them (00_scope.md R9). -/
def InputsHeld (s t : State) : Prop := t.a = s.a ∧ t.b = s.b ∧ t.op = s.op

/-- What a one-result operation leaves besides `Y0` (30_encoding.md R61). -/
def OneResult (s t : State) : Prop := InputsHeld s t ∧ t.y1 = 0 ∧ t.two = false ∧ t.illegal = false

/-- What an increment-family operation leaves besides `Y0` and `Y1` (41_increment.md R102). -/
def TwoResults (s t : State) : Prop := InputsHeld s t ∧ t.two = true ∧ t.illegal = false

/-- The outputs an illegal code gives (60_exceptions.md R141). -/
def IllegalOutputs (t : State) : Prop := t.y0 = 0 ∧ t.y1 = 0 ∧ t.two = false ∧ t.illegal = true

/-- `KIND`, bits 4 to 2 of the code (30_encoding.md R50). -/
def kindField (op : OpCode) : Nat := op.toNat / 4

/-- The lane width that `WIDTH`, bits 1 to 0 of the code, selects: 8, 16, 32 or 64 (30_encoding.md R51). -/
def widthField (op : OpCode) : Nat := 8 * 2 ^ (op.toNat % 4)

/-- The output ports conform to the dispatch rule for the values on the input ports (30_encoding.md R61, R55; the lane
formulas of 40_add.md R80 and R82, 41_increment.md R100 and R101, 42_multiply.md R120). -/
def PortsConform (s : State) : Prop :=
  let W := widthField s.op
  (19 ≤ s.op.toNat → IllegalOutputs s) ∧
  (s.op.toNat < 19 → s.illegal = false) ∧
  (kindField s.op = 0 → s.two = false ∧ s.y1 = 0 ∧
    ∀ i < 64 / W, laneNum W s.y0 i = (laneNum W s.a i + laneNum W s.b i) % 2 ^ W) ∧
  (kindField s.op = 1 → s.two = false ∧ s.y1 = 0 ∧
    ∀ i < 64 / W, laneNum W s.y0 i = min (laneNum W s.a i + laneNum W s.b i) (2 ^ W - 1)) ∧
  (kindField s.op = 2 → s.two = true ∧
    ∀ i < 64 / W, laneNum W s.y0 i = (laneNum W s.a i + 1) % 2 ^ W ∧
      laneNum W s.y1 i = (laneNum W s.b i + 1) % 2 ^ W) ∧
  (kindField s.op = 3 → s.two = true ∧
    ∀ i < 64 / W, laneNum W s.y0 i = min (laneNum W s.a i + 1) (2 ^ W - 1) ∧
      laneNum W s.y1 i = min (laneNum W s.b i + 1) (2 ^ W - 1)) ∧
  (kindField s.op = 4 → s.op.toNat < 19 → s.two = false ∧ s.y1 = 0 ∧
    ∀ j < 64 / W / 2, laneNum (2 * W) s.y0 j = laneNum W s.a (2 * j + 1) * laneNum W s.b (2 * j + 1))

/-- The output ports hold `calc` of the values now on the input ports (10_state.md R39). -/
def OutputsFollow (s : State) : Prop := s.outputs = calculate s.a s.b s.op

/-- The values on the ports at some moment: after power-up, after the host drives any inputs, after an invocation, in any
order and number (10_state.md R39, 70_reset_and_hazards.md R165). -/
inductive PortMoment : State → Prop where
  /-- The first moment (log entry 2 for its inputs). -/
  | first : PortMoment State.reset
  /-- The host drives the inputs. -/
  | driven (s : State) (a b : Word) (op : OpCode) : PortMoment s → PortMoment (s.driveInputs a b op)
  /-- The ALU takes a step. -/
  | stepped (s t : State) : PortMoment s → step s = .next t → PortMoment t

/-- The three input ports hold the same values. -/
def SameInputs (s t : State) : Prop := s.a = t.a ∧ s.b = t.b ∧ s.op = t.op

end Sys2Proof.Machine
end

