-- ==== Sys2Proof/Certificates/Slice0/Obligations.lean ====
section
/-!
DEFINITION. The statements for the provers. Results are said through `laneNum` and `field` (Safety.lean): plain numbers
read off the ports, none of the model's own lane operations, but where a rule speaks of those operations themselves.
-/

open Sys2Proof Sys2Proof.Machine

/-! ### Encoding and decoding -/

/-- 30_encoding.md R54, R55, R56, R60: decoding an encoded well-formed operation gives it back; every code that decodes
is the code of what it decodes to; and a table word of any size decodes by its low five bits alone (that last clause is
the model's reading, log entry 4). -/
def Obligations.DecodeEncodeAgree : Prop :=
  (∀ i : Instr, i.wellFormed = true → decode (encode i) = .ok i) ∧
  (∀ (op : OpCode) (i : Instr), decode op = .ok i → encode i = op ∧ i.wellFormed = true) ∧
  (∀ (nbits w : Nat) (i : Instr), decodeTableWord nbits w = some i ↔ w % 32 = (encode i).toNat)

/-- 30_encoding.md R51, R52 (the fields' values are the spec's decision D3): what each of the eight values of `KIND` and
each of the four values of `WIDTH` selects, in every code, and that an operation's code holds its own kind and width. -/
def Obligations.CodeFieldsSelectKindAndWidth : Prop :=
  (∀ op : OpCode,
    Kind.ofCode (op.extractLsb' 2 3) =
      (match op.toNat / 4 with
        | 0 => some .add | 1 => some .adds | 2 => some .inc | 3 => some .incs | 4 => some .mull | _ => none) ∧
    Width.ofCode (op.extractLsb' 0 2) = (match op.toNat % 4 with | 0 => .b | 1 => .w | 2 => .d | _ => .q) ∧
    (Width.ofCode (op.extractLsb' 0 2)).bits = (match op.toNat % 4 with | 0 => 8 | 1 => 16 | 2 => 32 | _ => 64)) ∧
  (∀ i : Instr, Kind.ofCode ((encode i).extractLsb' 2 3) = some i.kind ∧
    Width.ofCode ((encode i).extractLsb' 0 2) = i.width)

/-- 30_encoding.md R60: on all 32 codes, decoding gives the kind that `OP[4:2]` and the width that `OP[1:0]` select, or
rejects: `KIND` above 4, and `KIND` 4 with `WIDTH` 3. The opcode map and the decode by fields agree on it. -/
def Obligations.DecodeIsDecodeByFields : Prop :=
  ∀ op : OpCode,
    decodeFields op = (decode op).toOption.map (fun i => (i.kind, i.width)) ∧
    (decode op).toOption.map (fun i => (i.kind, i.width.bits)) =
      (match op.toNat / 4 with
        | 0 => some (.add, widthField op)
        | 1 => some (.adds, widthField op)
        | 2 => some (.inc, widthField op)
        | 3 => some (.incs, widthField op)
        | 4 => if op.toNat % 4 = 3 then none else some (.mull, widthField op)
        | _ => none)

/-- 30_encoding.md R55, 42_multiply.md R126: the rejected codes are exactly 0x13 to 0x1F, and 0x13 is rejected as the
multiply that does not exist. -/
def Obligations.RejectedCodesAreThirteen : Prop :=
  (∀ op : OpCode, (∃ e, decode op = .error e) ↔ 0x13 ≤ op.toNat) ∧
  decode 0x13#5 = .error .noQMultiply ∧
  (∀ op : OpCode, 0x14 ≤ op.toNat → decode op = .error .unassignedKind)

/-- 30_encoding.md R54: a code of each family, written out from its two fields, is the operation the map gives. -/
def Obligations.WrittenCodesDecode : Prop :=
  decode (0b000#3 ++ 0b01#2) = .ok .paddw ∧ decode (0b001#3 ++ 0b11#2) = .ok .paddsq ∧
  decode (0b010#3 ++ 0b10#2) = .ok .pincd ∧ decode (0b011#3 ++ 0b00#2) = .ok .pincsb ∧
  decode (0b100#3 ++ 0b10#2) = .ok .pmulld

/-- 30_encoding.md R57, R64, 42_multiply.md R126: every operation is found under its mnemonic, two operations never share
one, and PMULLQ names none. -/
def Obligations.MnemonicsNameOperations : Prop :=
  (∀ i : Instr, Instr.ofMnemonic i.mnemonic = some i) ∧
  (∀ i j : Instr, i.mnemonic = j.mnemonic → i = j) ∧
  Instr.ofMnemonic "PMULLQ" = none

/-! ### The step -/

/-- 30_encoding.md R61, 10_state.md R34: when the code on `OP` decodes to an operation, the step is that operation's
meaning on the same ports, and nothing is fetched or moved past. -/
def Obligations.StepRunsDecodedOperation : Prop :=
  ∀ (s : State) (i : Instr), decode s.op = .ok i → step s = exec i s

/-- 10_state.md R34, R39: driving a table word on `OP` makes the very next step run the operation it decodes to, on the
operands already on `A` and `B`; and the outputs are `calc` of the new inputs at once, before that step. The model's
choices here: withFetchWord stands for the host driving `OP` (log entry 3), the word's low five bits reach the port (log
entry 4), and outputs that follow the inputs are fields that every change of the inputs sets (log entry 1). -/
def Obligations.DrivenWordRunsNext : Prop :=
  ∀ (s : State) (nbits w : Nat) (i : Instr), decodeTableWord nbits w = some i →
    step (s.withFetchWord nbits w) = exec i (s.withFetchWord nbits w) ∧
    (s.withFetchWord nbits w).a = s.a ∧ (s.withFetchWord nbits w).b = s.b ∧
    (s.withFetchWord nbits w).outputs = calculate s.a s.b (encode i)

/-- 30_encoding.md R61: the step from any ports drives exactly what `calc` says, and touches no input port. -/
def Obligations.StepDrivesCalculate : Prop :=
  ∀ s : State, ∃ t, step s = .next t ∧ InputsHeld s t ∧ t.outputs = calculate s.a s.b s.op

/-- 10_state.md R39, 70_reset_and_hazards.md R160: after reset the output ports are already what the dispatch rule gives
for the values on the input ports (which values those are is the model's choice, log entry 2). -/
def Obligations.ResetPortsConform : Prop := PortsConform State.reset

/-- 70_reset_and_hazards.md R160, 30_encoding.md R61: output ports that conform to the dispatch rule still do after any
step. -/
def Obligations.StepKeepsPortsConforming : Prop :=
  ∀ s t : State, PortsConform s → step s = .next t → PortsConform t

/-- Derived from 10_state.md section 4 and 30_encoding.md section 5: the outputs are `calc` of the values on the inputs after
reset, as soon as the host drives any inputs (a table word on `OP` among them), and after a step from any ports; and where
they are, a step changes no port. The model's choices here: the outputs are fields that each of these sets (log entry 1), and
the reading of a table word (entries 3 and 4). What the inputs hold after reset (entry 2) plays no part. -/
def Obligations.OutputsFollowInputs : Prop :=
  OutputsFollow State.reset ∧
  (∀ (s : State) (a b : Word) (op : OpCode),
    (s.driveInputs a b op).a = a ∧ (s.driveInputs a b op).b = b ∧ (s.driveInputs a b op).op = op ∧
      OutputsFollow (s.driveInputs a b op)) ∧
  (∀ (s : State) (nbits w : Nat), OutputsFollow (s.withFetchWord nbits w)) ∧
  (∀ s t : State, step s = .next t → OutputsFollow t) ∧
  (∀ s : State, OutputsFollow s → step s = .next s)

/-- 10_state.md R39: at every moment, from power-up on, through any inputs the host drives and any number of invocations in
any order, the outputs are `calc` of the inputs then on the ports, and so conform, lane by lane, to the dispatch rule. -/
def Obligations.OutputsFollowAtEveryMoment : Prop :=
  ∀ s : State, PortMoment s → OutputsFollow s ∧ PortsConform s

/-- 60_exceptions.md R140 (and R141 for the other codes): from ANY values on the ports, outputs that no moment leaves there among them, a step
answers a next state whose outputs are what the family rules give, `ILLEGAL = 0` on every legal code, with the input ports
held. -/
def Obligations.StepMakesPortsConform : Prop :=
  ∀ s : State, ∃ t, step s = .next t ∧ InputsHeld s t ∧ PortsConform t

/-- 10_state.md R20: the dispatch rule determines the outputs: two conforming states with the same inputs are one state. -/
def Obligations.ConformingPortsAreDetermined : Prop :=
  ∀ s t : State, PortsConform s → PortsConform t → SameInputs s t → s = t

/-- 10_state.md R20: an invocation is a total function of its inputs: it always answers, and what it answers depends on the
values on `A`, `B` and `OP` and on nothing an earlier invocation left on the output ports. -/
def Obligations.StepDependsOnInputsOnly : Prop :=
  ∀ s s' : State, SameInputs s s' → ∃ t, step s = .next t ∧ step s' = .next t

/-- 60_exceptions.md R145, R146: an illegal invocation marks the output ports of that invocation alone. From the ports it
leaves, `ILLEGAL = 1` among them, the next invocation answers what it would have answered from the ports before it: a next
state whose outputs are `calc` of its own inputs, and `ILLEGAL` is 1 again only if its own code is illegal. The inputs change
by `setInputs`, which leaves the output ports of the illegal invocation standing, so that the step itself must clear them. -/
def Obligations.IllegalInvocationLeavesNoTrace : Prop :=
  ∀ (s t : State) (v : Invocation), 0x13 ≤ s.op.toNat → step s = .next t →
    IllegalOutputs t ∧ (t.setInputs v.a v.b v.op).outputs = t.outputs ∧
    ∃ u, step (t.setInputs v.a v.b v.op) = .next u ∧ step (s.setInputs v.a v.b v.op) = .next u ∧
      u.outputs = calculate v.a v.b v.op ∧ (u.illegal = true ↔ 0x13 ≤ v.op.toNat)

/-- 20_memory.md R44: a repeated invocation with the same inputs gives the same outputs, however often it is repeated,
and no run ever stops. -/
def Obligations.RepeatedInvocationIsStable : Prop :=
  ∀ (k : Nat) (s : State), ∃ t, Host.Core.run core (k + 1) s = .next t ∧ step s = .next t

/-- 20_memory.md R46 (an inference the spec marks as its own, `[derived]`): invocations are sampled each by itself: whatever state the ALU is in and whatever order the host
chooses, each invocation gives what `calc` gives on its own inputs. -/
def Obligations.InvocationOrderIsIrrelevant : Prop :=
  (∀ (s : State) (vs : List Invocation), sampleAll s vs = vs.map fun v => calculate v.a v.b v.op) ∧
  (∀ (s s' : State) (vs vs' : List Invocation), vs.Perm vs' → (sampleAll s vs).Perm (sampleAll s' vs'))

/-- 60_exceptions.md R141 (the spec's decision D7): each of the 13 illegal codes drives the four constant outputs whatever `A` and `B` hold, leaves
the code on `OP`, and is a fault of the host program that issued it, with nothing stored. -/
def Obligations.IllegalOperationOutcome : Prop :=
  (∀ s : State, 0x13 ≤ s.op.toNat → ∃ t, step s = .next t ∧ InputsHeld s t ∧ IllegalOutputs t) ∧
  (∀ (h : HostState) (d : Nat) (op : OpCode) (x y : Operand), 0x13 ≤ op.toNat →
    hostStep (.raw d op x y) h = .fault (.illegalOperation op))

/-- 10_state.md R25, R26, R27: `ILLEGAL` is 1 exactly on the 13 codes that name no operation, `TWO` exactly on the eight
increment codes, and `Y1` is 0 whenever `TWO` is 0 (and is the incremented `B` otherwise). -/
def Obligations.ResultShapePorts : Prop :=
  ∀ s : State, ∃ t, step s = .next t ∧
    (t.illegal = true ↔ 0x13 ≤ s.op.toNat) ∧
    (t.two = true ↔ 0x08 ≤ s.op.toNat ∧ s.op.toNat ≤ 0x0F) ∧
    (t.two = false → t.y1 = 0) ∧
    (0x08 ≤ s.op.toNat → s.op.toNat ≤ 0x0B →
      ∀ i < 64 / widthField s.op, laneNum (widthField s.op) t.y1 i =
        (laneNum (widthField s.op) s.b i + 1) % 2 ^ widthField s.op) ∧
    (0x0C ≤ s.op.toNat → s.op.toNat ≤ 0x0F →
      ∀ i < 64 / widthField s.op, laneNum (widthField s.op) t.y1 i =
        min (laneNum (widthField s.op) s.b i + 1) (2 ^ widthField s.op - 1))

/-- 30_encoding.md R62: a legal code outside the increment family gives the one register `Y0` and `TWO = 0`; an increment
code gives the ordered pair of the result for `A` and the result for `B`, on `Y0` and `Y1`, and `TWO = 1`. -/
def Obligations.TaggedResultFollowsTwo : Prop :=
  ∀ s : State, s.op.toNat < 0x13 → ∃ t, step s = .next t ∧
    (s.op.toNat < 0x08 ∨ 0x10 ≤ s.op.toNat → t.two = false ∧ t.outputs.result = some (.one t.y0)) ∧
    (0x08 ≤ s.op.toNat → s.op.toNat < 0x10 → t.two = true ∧ t.outputs.result = some (.two t.y0 t.y1)) ∧
    (0x08 ≤ s.op.toNat → s.op.toNat < 0x0C →
      t.y0 = winc (widthField s.op) s.a ∧ t.y1 = winc (widthField s.op) s.b) ∧
    (0x0C ≤ s.op.toNat → s.op.toNat < 0x10 →
      t.y0 = sinc (widthField s.op) s.a ∧ t.y1 = sinc (widthField s.op) s.b)

/-! ### The five families: every operation completes, with its result and its frame -/

/-- 40_add.md R80, R83 to R86: PADDB, PADDW, PADDD and PADDQ, at their codes, complete on every state; every lane of `Y0`
is the lane sum modulo `2^W`; the other outputs are 0; no port but the outputs changes. -/
def Obligations.PackedWrappingAddResult : Prop :=
  ∀ p ∈ [(Instr.paddb, 0x00#5, 8), (.paddw, 0x01#5, 16), (.paddd, 0x02#5, 32), (.paddq, 0x03#5, 64)],
    decode p.2.1 = .ok p.1 ∧
    ∀ s : State, ∃ t, exec p.1 s = .next t ∧ OneResult s t ∧
      ∀ i < 64 / p.2.2, laneNum p.2.2 t.y0 i = (laneNum p.2.2 s.a i + laneNum p.2.2 s.b i) % 2 ^ p.2.2

/-- 40_add.md R82, R87 to R90: PADDSB, PADDSW, PADDSD and PADDSQ, at their codes, complete on every state; every lane of
`Y0` is the lane sum clamped at `2^W - 1`, in both forms R82 gives; the other outputs are 0; no port but the outputs
changes. The last clause is the contrast with PADDB and PADDQ that R87 and R90 draw. -/
def Obligations.PackedSaturatingAddResult : Prop :=
  (∀ p ∈ [(Instr.paddsb, 0x04#5, 8), (.paddsw, 0x05#5, 16), (.paddsd, 0x06#5, 32), (.paddsq, 0x07#5, 64)],
    decode p.2.1 = .ok p.1 ∧
    ∀ s : State, ∃ t, exec p.1 s = .next t ∧ OneResult s t ∧
      ∀ i < 64 / p.2.2,
        laneNum p.2.2 t.y0 i = min (laneNum p.2.2 s.a i + laneNum p.2.2 s.b i) (2 ^ p.2.2 - 1) ∧
        laneNum p.2.2 t.y0 i =
          (if laneCarry (lane p.2.2 s.a i) (lane p.2.2 s.b i) = true then 2 ^ p.2.2 - 1
            else laneNum p.2.2 s.a i + laneNum p.2.2 s.b i)) ∧
  (∀ s : State, s.a = 0x00FF00FF00FF00FF → s.b = 0x0001000100010001 → ∃ t, exec .paddb s = .next t ∧ t.y0 = 0) ∧
  (∀ s : State, s.a = 0xFFFFFFFFFFFFFFFF → s.b = 1 → ∃ t, exec .paddq s = .next t ∧ t.y0 = 0)

/-- 41_increment.md R103 to R106 (the lane formula is R100's): PINCB, PINCW, PINCD and PINCQ, at their codes, complete on every state; every
lane of `Y0` is `A`'s lane plus 1 modulo `2^W`, and every lane of `Y1` is `B`'s; `TWO` is 1; no port but the outputs changes. -/
def Obligations.PackedWrappingIncrementResult : Prop :=
  ∀ p ∈ [(Instr.pincb, 0x08#5, 8), (.pincw, 0x09#5, 16), (.pincd, 0x0A#5, 32), (.pincq, 0x0B#5, 64)],
    decode p.2.1 = .ok p.1 ∧
    ∀ s : State, ∃ t, exec p.1 s = .next t ∧ TwoResults s t ∧
      ∀ i < 64 / p.2.2, laneNum p.2.2 t.y0 i = (laneNum p.2.2 s.a i + 1) % 2 ^ p.2.2 ∧
        laneNum p.2.2 t.y1 i = (laneNum p.2.2 s.b i + 1) % 2 ^ p.2.2

/-- 41_increment.md R107 to R110 (the lane formula is R101's): PINCSB, PINCSW, PINCSD and PINCSQ, at their codes, complete on every state;
every lane of `Y0` is `A`'s lane plus 1 clamped at `2^W - 1`, in both forms R101 gives, and every lane of `Y1` is `B`'s;
`TWO` is 1; no port but the outputs changes. -/
def Obligations.PackedSaturatingIncrementResult : Prop :=
  ∀ p ∈ [(Instr.pincsb, 0x0C#5, 8), (.pincsw, 0x0D#5, 16), (.pincsd, 0x0E#5, 32), (.pincsq, 0x0F#5, 64)],
    decode p.2.1 = .ok p.1 ∧
    ∀ s : State, ∃ t, exec p.1 s = .next t ∧ TwoResults s t ∧
      ∀ i < 64 / p.2.2,
        laneNum p.2.2 t.y0 i = min (laneNum p.2.2 s.a i + 1) (2 ^ p.2.2 - 1) ∧
        laneNum p.2.2 t.y0 i =
          (if laneNum p.2.2 s.a i = 2 ^ p.2.2 - 1 then 2 ^ p.2.2 - 1 else laneNum p.2.2 s.a i + 1) ∧
        laneNum p.2.2 t.y1 i = min (laneNum p.2.2 s.b i + 1) (2 ^ p.2.2 - 1) ∧
        laneNum p.2.2 t.y1 i =
          (if laneNum p.2.2 s.b i = 2 ^ p.2.2 - 1 then 2 ^ p.2.2 - 1 else laneNum p.2.2 s.b i + 1)

/-- 42_multiply.md R120, R123, R124, R125: PMULLB, PMULLW and PMULLD, at their codes, complete on every state; lane `j` of
width `2W` of `Y0` is the exact product of the odd lanes `2j+1` of width `W` (exact by the spec's decision D5), at most `(2^W - 1)^2`, and occupies the bits of the
pair it came from; the other outputs are 0; no port but the outputs changes. -/
def Obligations.OddLaneMultiplyResult : Prop :=
  ∀ p ∈ [(Instr.pmullb, 0x10#5, 8), (.pmullw, 0x11#5, 16), (.pmulld, 0x12#5, 32)],
    decode p.2.1 = .ok p.1 ∧
    ∀ s : State, ∃ t, exec p.1 s = .next t ∧ OneResult s t ∧
      ∀ j < 64 / p.2.2 / 2,
        field t.y0 (2 * p.2.2 * j) (2 * p.2.2) = laneNum p.2.2 s.a (2 * j + 1) * laneNum p.2.2 s.b (2 * j + 1) ∧
        laneNum p.2.2 s.a (2 * j + 1) * laneNum p.2.2 s.b (2 * j + 1) ≤ (2 ^ p.2.2 - 1) ^ 2

/-! ### Lane views -/

/-- 10_state.md R29, 20_memory.md R42: lane `i` is the field from bit `W*i`; byte `k` of a value is its byte lane `k`. -/
def Obligations.LaneIsBitField : Prop :=
  ∀ W ∈ [8, 16, 32, 64], ∀ (x : Word), ∀ i < 64 / W, ∀ k < W,
    (lane W x i).toNat = field x (W * i) W ∧ (lane W x i).getLsbD k = x.getLsbD (W * i + k)

/-- 10_state.md R30: composition is concatenation with lane 0 least significant, equally the bitwise or of the shifted
lanes, and extraction gives every lane back. -/
def Obligations.PackIsConcatenation : Prop :=
  ∀ W ∈ [8, 16, 32, 64], ∀ f : Nat → BitVec W,
    (pack W f).toNat = ∑ i ∈ Finset.range (64 / W), (f i).toNat * 2 ^ (W * i) ∧
    pack W f = (List.range (64 / W)).foldl (fun acc i => acc ||| ((f i).setWidth 64 <<< (W * i))) 0 ∧
    ∀ i < 64 / W, lane W (pack W f) i = f i

/-- 10_state.md R31: reading a value as lanes and composing them gives the value back, at every width; at width 64 there
is one lane, the value. -/
def Obligations.LaneViewRoundTrip : Prop :=
  (∀ W ∈ [64, 32, 16, 8], ∀ x : Word, pack W (lane W x) = x) ∧ (∀ x : Word, lane 64 x 0 = x)

/-- 10_state.md R32 (an inference the spec marks as its own, `[derived]`): a lane of width `2W` is its odd lane of width `W` above its even one. -/
def Obligations.LaneViewsNest : Prop :=
  ∀ W ∈ [8, 16, 32], ∀ (x : Word), ∀ j < 32 / W,
    (lane (2 * W) x j).toNat = (lane W x (2 * j + 1) ++ lane W x (2 * j)).toNat

/-! ### The add family's laws -/

/-- 40_add.md R81: the lane carry is the sum reaching `2^W`, which is bit `W` of the `(W+1)`-bit sum. -/
def Obligations.LaneCarryIsTopSumBit : Prop :=
  ∀ W ∈ [8, 16, 32, 64], ∀ x y : BitVec W,
    (laneCarry x y = true ↔ 2 ^ W ≤ x.toNat + y.toNat) ∧
    laneCarry x y = (x.setWidth (W + 1) + y.setWidth (W + 1)).getLsbD W

/-- 40_add.md section 3 (the no-cross-lane-carry law, which the spec derives): in PADDB, PADDW, PADDD, PADDSB, PADDSW and PADDSD, a result lane is a function of the same lane of the
operands alone, whatever the other lanes hold; with every lane at its maximum and 1 added in every lane, every lane wraps
to 0. -/
def Obligations.NoCarryCrossesLanes : Prop :=
  (∀ p ∈ [(Instr.paddb, 8), (.paddw, 16), (.paddd, 32), (.paddsb, 8), (.paddsw, 16), (.paddsd, 32)],
    ∀ (s s' : State), ∀ i < 64 / p.2,
      laneNum p.2 s.a i = laneNum p.2 s'.a i → laneNum p.2 s.b i = laneNum p.2 s'.b i →
      ∃ t t', exec p.1 s = .next t ∧ exec p.1 s' = .next t' ∧ laneNum p.2 t.y0 i = laneNum p.2 t'.y0 i) ∧
  (∀ p ∈ [(Instr.paddb, 8), (.paddw, 16), (.paddd, 32)], ∀ s : State,
    s.a = 0xFFFFFFFFFFFFFFFF → s.b = oneInEveryLane p.2 → ∃ t, exec p.1 s = .next t ∧ t.y0 = 0)

/-- 40_add.md R92 (an inference the spec marks as its own, `[derived]`): a saturating lane never exceeds `2^W - 1`; where the lane carries it is `2^W - 1` and the wrapping lane
is the sum less `2^W`; where it does not, the two agree; and the two sums agree whole when no lane carries. -/
def Obligations.SaturationCeiling : Prop :=
  ∀ W ∈ [8, 16, 32, 64], ∀ a b : Word,
    (∀ i < 64 / W,
      laneNum W (sadd W a b) i ≤ 2 ^ W - 1 ∧
      (laneCarry (lane W a i) (lane W b i) = false → laneNum W (sadd W a b) i = laneNum W (wadd W a b) i) ∧
      (laneCarry (lane W a i) (lane W b i) = true →
        laneNum W (wadd W a b) i + 2 ^ W = laneNum W a i + laneNum W b i ∧
        laneNum W (sadd W a b) i = 2 ^ W - 1)) ∧
    ((∀ i < 64 / W, laneNum W a i + laneNum W b i < 2 ^ W) → sadd W a b = wadd W a b)

/-- 40_add.md R93 (an inference the spec marks as its own, `[derived]`): both adds are commutative and associative with identity 0; all ones absorbs under the saturating add;
a chain of saturating adds clamps the sum of the lanes once; and after a clamp the wrapping chain differs. -/
def Obligations.AddAlgebra : Prop :=
  (∀ W ∈ [8, 16, 32, 64], ∀ a b c : Word,
    wadd W a b = wadd W b a ∧ sadd W a b = sadd W b a ∧
    wadd W (wadd W a b) c = wadd W a (wadd W b c) ∧ sadd W (sadd W a b) c = sadd W a (sadd W b c) ∧
    wadd W a 0 = a ∧ sadd W a 0 = a ∧
    sadd W a 0xFFFFFFFFFFFFFFFF = 0xFFFFFFFFFFFFFFFF ∧
    ∀ (ops : List Word), ∀ i < 64 / W,
      laneNum W (ops.foldl (sadd W) a) i =
        min (laneNum W a i + (ops.map fun x => laneNum W x i).sum) (2 ^ W - 1)) ∧
  laneNum 8 (sadd 8 (sadd 8 0xF0 0x20) 0xE0) 0 = 0xFF ∧ laneNum 8 (wadd 8 (wadd 8 0xF0 0x20) 0xE0) 0 = 0xF0

/-! ### The increment family's laws -/

/-- 41_increment.md R100, R101 (an inference the spec marks as its own, `[derived]`): each increment is the add of the same kind with 1 in every lane, and its saturation detect
is the lane carry with the lane 1. -/
def Obligations.IncrementIsAddOfOnes : Prop :=
  ∀ W ∈ [8, 16, 32, 64], ∀ a : Word,
    winc W a = wadd W a (oneInEveryLane W) ∧ sinc W a = sadd W a (oneInEveryLane W) ∧
    ∀ i < 64 / W, laneCarry (lane W a i) (1#W) = true ↔ laneNum W a i = 2 ^ W - 1

/-- 41_increment.md R102: each increment operation drives its own primitive of `A` on `Y0` and of `B` on `Y1`, with
`TWO = 1`; so `Y0` does not depend on `B`, nor `Y1` on `A`, and equal operands give equal results. -/
def Obligations.IncrementsAreIndependent : Prop :=
  ∀ p ∈ [(Instr.pincb, winc 8), (.pincw, winc 16), (.pincd, winc 32), (.pincq, winc 64),
      (.pincsb, sinc 8), (.pincsw, sinc 16), (.pincsd, sinc 32), (.pincsq, sinc 64)],
    ∀ s s' : State, ∃ t t', exec p.1 s = .next t ∧ exec p.1 s' = .next t' ∧
      TwoResults s t ∧ t.y0 = p.2 s.a ∧ t.y1 = p.2 s.b ∧
      (s.a = s'.a → t.y0 = t'.y0) ∧ (s.b = s'.b → t.y1 = t'.y1) ∧ (s.a = s.b → t.y0 = t.y1)

/-- 41_increment.md R111 (laws the spec marks as its own inference, `[derived]`). (a): in all eight increment operations changing `B` never changes `Y0` and changing `A` never
changes `Y1`. (b) to (e): the wrapping increment is a bijection that `2^W` applications undo; the saturating one fixes
exactly all ones, reaches it from anywhere in `2^W - 1` applications, and agrees with the wrapping one in every lane below
its maximum. -/
def Obligations.IncrementLaws : Prop :=
  (∀ i ∈ [Instr.pincb, .pincw, .pincd, .pincq, .pincsb, .pincsw, .pincsd, .pincsq], ∀ s s' : State,
    ∃ t t', exec i s = .next t ∧ exec i s' = .next t' ∧
      (s.a = s'.a → t.y0 = t'.y0) ∧ (s.b = s'.b → t.y1 = t'.y1)) ∧
  ∀ W ∈ [8, 16, 32, 64],
    Function.Bijective (winc W) ∧ (∀ x : Word, (winc W)^[2 ^ W] x = x) ∧
    (∀ x : Word, sinc W x = x ↔ ∀ i < 64 / W, laneNum W x i = 2 ^ W - 1) ∧
    (∀ x : Word, sinc W x = x ↔ x = 0xFFFFFFFFFFFFFFFF) ∧
    (∀ x : Word, (sinc W)^[2 ^ W - 1] x = 0xFFFFFFFFFFFFFFFF) ∧
    (∀ x : Word, ∀ i < 64 / W, laneNum W x i ≠ 2 ^ W - 1 → laneNum W (sinc W x) i = laneNum W (winc W x) i)

/-! ### The multiply family's laws -/

/-- 42_multiply.md R122 (an inference the spec marks as its own, `[derived]`): inputs of PMULLB, PMULLW or PMULLD that agree in every odd lane give identical results, whatever
the even lanes hold; and the rule's two illustrations, the corrected one and the top byte that is read. -/
def Obligations.EvenLanesAreIgnored : Prop :=
  (∀ p ∈ [(Instr.pmullb, 8), (.pmullw, 16), (.pmulld, 32)], ∀ s s' : State,
    (∀ k < 64 / p.2, k % 2 = 1 →
      laneNum p.2 s.a k = laneNum p.2 s'.a k ∧ laneNum p.2 s.b k = laneNum p.2 s'.b k) →
    ∃ t t', exec p.1 s = .next t ∧ exec p.1 s' = .next t' ∧ t.outputs = t'.outputs) ∧
  mull 8 0x0000000000000002 0x0000000000000003 = mull 8 0 0 ∧ mull 8 0 0 = 0 ∧
  mull 8 0x0200000000000000 0x0300000000000000 = 0x0006000000000000

/-- 42_multiply.md R127 (an inference the spec marks as its own, `[derived]`): the multiply is commutative, gives 0 with 0, and with 1 in every lane puts each odd lane,
zero-extended, in its pair's place, so that at width `W` the odd lanes of the result are 0 and the even ones the odd lanes
of the operand; no result lane wraps or saturates. -/
def Obligations.MultiplyLaws : Prop :=
  ∀ W ∈ [8, 16, 32], ∀ a b : Word,
    mull W a b = mull W b a ∧ mull W a 0 = 0 ∧
    (∀ j < 32 / W,
      laneNum (2 * W) (mull W a (oneInEveryLane W)) j = laneNum W a (2 * j + 1) ∧
      laneNum W (mull W a (oneInEveryLane W)) (2 * j + 1) = 0 ∧
      laneNum W (mull W a (oneInEveryLane W)) (2 * j) = laneNum W a (2 * j + 1)) ∧
    ∀ j < 32 / W, laneNum (2 * W) (mull W a b) j = laneNum W a (2 * j + 1) * laneNum W b (2 * j + 1)

/-- 42_multiply.md R126: no operation multiplies at width 64, the mnemonic PMULLQ names none, and its would-be code 0x13
gives the illegal outcome. The last clause says what the primitive of R121 is, which that code would otherwise select. -/
def Obligations.QMultiplyDoesNotExist : Prop :=
  (∀ i : Instr, i.kind = .mull → i.width.bits < 64) ∧ Instr.ofMnemonic "PMULLQ" = none ∧
  (∀ s : State, s.op = 0x13#5 → ∃ t, step s = .next t ∧ InputsHeld s t ∧ IllegalOutputs t) ∧
  (∀ a b : Word, (mull64 a b).toNat = a.toNat * b.toNat % 2 ^ 64)

/-! ### The host: programs, omitted operands, rendering -/

/-- 30_encoding.md R58: a one-result step reads its operands before it stores, stores `Y0` of that invocation in its
destination, and leaves every other host variable alone. The same step in raw form does the same. -/
def Obligations.OneResultHostStep : Prop :=
  ∀ (h : HostState) (d : Nat) (i : Instr) (x y : Operand), i.kind.returnsTwo = false →
    ∃ h', hostStep (.one d i x y) h = .next h' ∧ hostStep (.raw d (encode i) x y) h = .next h' ∧
      readVar d h'.vars = (calculate (x.value h.vars) (y.value h.vars) (encode i)).y0 ∧
      (∀ k, k ≠ d → readVar k h'.vars = readVar k h.vars) ∧
      h'.alu.a = x.value h.vars ∧ h'.alu.b = y.value h.vars ∧ h'.alu.op = encode i

/-- 30_encoding.md R58: an increment step reads its operands before it stores, stores `Y0` in its first destination and
`Y1` in its second, and leaves every other host variable alone. -/
def Obligations.TwoResultHostStep : Prop :=
  ∀ (h : HostState) (d0 d1 : Nat) (i : Instr) (x y : Operand), i.kind.returnsTwo = true → d0 ≠ d1 →
    ∃ h', hostStep (.two d0 d1 i x y) h = .next h' ∧
      readVar d0 h'.vars = (calculate (x.value h.vars) (y.value h.vars) (encode i)).y0 ∧
      readVar d1 h'.vars = (calculate (x.value h.vars) (y.value h.vars) (encode i)).y1 ∧
      (∀ k, k ≠ d0 → k ≠ d1 → readVar k h'.vars = readVar k h.vars) ∧
      h'.alu.a = x.value h.vars ∧ h'.alu.b = y.value h.vars ∧ h'.alu.op = encode i

/-- The model's own invariant of the host layer (30_encoding.md R58 gives the variables; their listing is the model's):
every completed step keeps the listing canonical and leaves conforming ports. -/
def Obligations.HostStepKeepsCanonicalVars : Prop :=
  ∀ (p : HostStep) (h h' : HostState), varsRise h.vars = true → hostStep p h = .next h' →
    varsRise h'.vars = true ∧ PortsConform h'.alu

/-- 30_encoding.md R58, 60_exceptions.md R141: a program faults at a step only where that step drove an illegal code, with
the host variables as that step found them. -/
def Obligations.HostFaultsOnlyOnIllegalCodes : Prop :=
  ∀ (p : HostStep) (h : HostState) (f : Fault), hostStep p h = .fault f →
    f = .illegalOperation p.code ∧ 0x13 ≤ p.code.toNat ∧
    ∀ (k : Nat) (ps : List HostStep), runProgram k h (p :: ps) = .faulted k h.vars f

/-- 70_reset_and_hazards.md R166: an increment operation always reads `B` and returns the incremented `B` on `Y1`; where the
user omits the second register, `B` is the open value `FRONTEND_OMITTED_B`, whatever it is (log entry 8). -/
def Obligations.OmittedSecondRegister : Prop :=
  ∀ (s : State) (i : Instr) (a : Word) (b : Option Word), i.kind.returnsTwo = true →
    ∃ t, frontEndCall s i (some a) b = .next t ∧ t.two = true ∧ t.illegal = false ∧
      t.b = (match b with | some v => v | none => Config.frontendOmittedB) ∧
      t.y0 = (if i.kind = .inc then winc i.width.bits a else sinc i.width.bits a) ∧
      t.y1 = (if i.kind = .inc then winc i.width.bits t.b else sinc i.width.bits t.b)

/-- 70_reset_and_hazards.md R168: a value renders as exactly 16 characters, digit `k` from the left being the nibble
`x[63-4k : 60-4k]` in the digit set 0-9, A-F, and different values render differently. -/
def Obligations.RenderingIsExact : Prop :=
  (∀ x : Word, (render x).length = 16 ∧
    ∀ k < 16, (render x).toList[k]? =
      ['0', '1', '2', '3', '4', '5', '6', '7', '8', '9', 'A', 'B', 'C', 'D', 'E', 'F'][field x (60 - 4 * k) 4]?) ∧
  (∀ x y : Word, render x = render y → x = y)
end

