-- ==== Sys2Proof/Laws/Lanes.lean ====
section
/-!
SUPPORT. What `lane` and `pack` do: bit by bit, lane by lane, and as numbers.
-/

namespace Sys2Proof.Machine

/-- A lane width of the hardware (00_scope.md R7). -/
abbrev IsLaneWidth (W : Nat) : Prop := W ∈ [8, 16, 32, 64]

theorem IsLaneWidth.pos {W : Nat} (h : IsLaneWidth W) : 0 < W := by
  simp only [IsLaneWidth, List.mem_cons, List.not_mem_nil, or_false] at h
  omega

/-- The lanes fill the 64 bits. -/
theorem IsLaneWidth.mul_laneCount {W : Nat} (h : IsLaneWidth W) : W * laneCount W = 64 := by
  simp only [IsLaneWidth, List.mem_cons, List.not_mem_nil, or_false] at h
  rcases h with rfl | rfl | rfl | rfl <;> rfl

theorem getLsbD_lane (W : Nat) (x : Word) (i k : Nat) :
    (lane W x i).getLsbD k = (decide (k < W) && x.getLsbD (W * i + k)) := by
  simp [lane]

theorem getLsbD_packLanes {W : Nat} (hW : 0 < W) (f : Nat → BitVec W) (n k : Nat) :
    (packLanes W n f).getLsbD k = (decide (k < 64) && decide (k < W * n) && (f (k / W)).getLsbD (k % W)) := by
  induction n with
  | zero => simp [packLanes]
  | succ n ih =>
    simp only [packLanes, BitVec.getLsbD_or, ih, BitVec.getLsbD_shiftLeft, BitVec.getLsbD_setWidth]
    by_cases h64 : k < 64
    swap
    · simp [h64]
    by_cases hlt : k < W * n
    · have h' : k < W * (n + 1) := by rw [Nat.mul_succ]; omega
      simp [h64, hlt, h']
    · by_cases hin : k < W * (n + 1)
      · have hq : k / W = n := by
          rw [Nat.div_eq_iff hW]
          rw [Nat.mul_succ] at hin
          have := Nat.mul_comm n W
          omega
        have hr : k % W = k - W * n := by
          have := Nat.div_add_mod k W
          rw [hq] at this
          omega
        have : k - W * n < 64 := by omega
        simp [h64, hlt, hin, hq, hr, this]
      · have : W ≤ k - W * n := by rw [Nat.mul_succ] at hin; omega
        simp [h64, hlt, hin, BitVec.getLsbD_of_ge _ _ this]

/-- Composing and then extracting gives the lane back (10_state.md R30), for any lane that lies within the 64 bits. -/
theorem lane_pack {W : Nat} (hW : 0 < W) (f : Nat → BitVec W) {i : Nat} (hi : i < laneCount W) :
    lane W (pack W f) i = f i := by
  have h64 : W * (i + 1) ≤ 64 := le_trans (Nat.mul_le_mul_left W hi) (Nat.mul_div_le 64 W)
  have hn : W * (i + 1) ≤ W * laneCount W := Nat.mul_le_mul_left W hi
  rw [Nat.mul_succ] at h64 hn
  refine BitVec.eq_of_getLsbD_eq fun k hk => ?_
  rw [getLsbD_lane, pack, getLsbD_packLanes hW]
  have h1 : W * i + k < 64 := by omega
  have h2 : W * i + k < W * laneCount W := by omega
  have h3 : (W * i + k) / W = i := by
    rw [Nat.mul_add_div hW, Nat.div_eq_of_lt hk, Nat.add_zero]
  have h4 : (W * i + k) % W = k := by rw [Nat.mul_add_mod, Nat.mod_eq_of_lt hk]
  simp [hk, h1, h2, h3, h4]

/-- Two values with the same lanes are the same, for a lane width of the hardware. -/
theorem eq_of_lanes {W : Nat} (hW : IsLaneWidth W) {x y : Word}
    (h : ∀ i < laneCount W, lane W x i = lane W y i) : x = y := by
  refine BitVec.eq_of_getLsbD_eq fun k hk => ?_
  have hmod : k % W < W := Nat.mod_lt k hW.pos
  have hq : k / W < laneCount W := by
    rw [Nat.div_lt_iff_lt_mul hW.pos, Nat.mul_comm, hW.mul_laneCount]
    exact hk
  have hb := congrArg (fun v => v.getLsbD (k % W)) (h (k / W) hq)
  simp only [getLsbD_lane, hmod, Nat.div_add_mod, decide_true, Bool.true_and] at hb
  exact hb

/-- A lane as a number is the bit field of 10_state.md R29. -/
theorem toNat_lane (W : Nat) (x : Word) (i : Nat) : (lane W x i).toNat = laneNum W x i := by
  simp [lane, laneNum, field, Nat.shiftRight_eq_div_pow]

theorem laneNum_lt (W : Nat) (x : Word) (i : Nat) : laneNum W x i < 2 ^ W :=
  Nat.mod_lt _ (Nat.two_pow_pos W)

theorem laneNum_pack {W : Nat} (hW : 0 < W) (f : Nat → BitVec W) {i : Nat} (hi : i < laneCount W) :
    laneNum W (pack W f) i = (f i).toNat := by
  rw [← toNat_lane, lane_pack hW f hi]

/-- Two values whose lanes are the same numbers are the same. -/
theorem eq_of_laneNums {W : Nat} (hW : IsLaneWidth W) {x y : Word}
    (h : ∀ i < laneCount W, laneNum W x i = laneNum W y i) : x = y :=
  eq_of_lanes hW fun i hi => BitVec.eq_of_toNat_eq (by simp only [toNat_lane, h i hi])

end Sys2Proof.Machine
end

