-- ==== Sys2Proof/Laws/State.lean ====
section
/-!
SUPPORT. One lemma per field per update of State, and what the updates do to the sampled outputs.
-/

namespace Sys2Proof.Machine.State

@[simp] theorem setInputs_a (s : State) (a b : Word) (op : OpCode) : (s.setInputs a b op).a = a := rfl
@[simp] theorem setInputs_b (s : State) (a b : Word) (op : OpCode) : (s.setInputs a b op).b = b := rfl
@[simp] theorem setInputs_op (s : State) (a b : Word) (op : OpCode) : (s.setInputs a b op).op = op := rfl
@[simp] theorem setInputs_y0 (s : State) (a b : Word) (op : OpCode) : (s.setInputs a b op).y0 = s.y0 := rfl
@[simp] theorem setInputs_y1 (s : State) (a b : Word) (op : OpCode) : (s.setInputs a b op).y1 = s.y1 := rfl
@[simp] theorem setInputs_two (s : State) (a b : Word) (op : OpCode) : (s.setInputs a b op).two = s.two := rfl
@[simp] theorem setInputs_illegal (s : State) (a b : Word) (op : OpCode) : (s.setInputs a b op).illegal = s.illegal := rfl

@[simp] theorem settle_a (s : State) : s.settle.a = s.a := rfl
@[simp] theorem settle_b (s : State) : s.settle.b = s.b := rfl
@[simp] theorem settle_op (s : State) : s.settle.op = s.op := rfl
@[simp] theorem settle_y0 (s : State) : s.settle.y0 = (calculate s.a s.b s.op).y0 := rfl
@[simp] theorem settle_y1 (s : State) : s.settle.y1 = (calculate s.a s.b s.op).y1 := rfl
@[simp] theorem settle_two (s : State) : s.settle.two = (calculate s.a s.b s.op).two := rfl
@[simp] theorem settle_illegal (s : State) : s.settle.illegal = (calculate s.a s.b s.op).illegal := rfl

@[simp] theorem driveInputs_a (s : State) (a b : Word) (op : OpCode) : (s.driveInputs a b op).a = a := rfl
@[simp] theorem driveInputs_b (s : State) (a b : Word) (op : OpCode) : (s.driveInputs a b op).b = b := rfl
@[simp] theorem driveInputs_op (s : State) (a b : Word) (op : OpCode) : (s.driveInputs a b op).op = op := rfl
@[simp] theorem driveInputs_y0 (s : State) (a b : Word) (op : OpCode) : (s.driveInputs a b op).y0 = (calculate a b op).y0 := rfl
@[simp] theorem driveInputs_y1 (s : State) (a b : Word) (op : OpCode) : (s.driveInputs a b op).y1 = (calculate a b op).y1 := rfl
@[simp] theorem driveInputs_two (s : State) (a b : Word) (op : OpCode) : (s.driveInputs a b op).two = (calculate a b op).two := rfl
@[simp] theorem driveInputs_illegal (s : State) (a b : Word) (op : OpCode) : (s.driveInputs a b op).illegal = (calculate a b op).illegal := rfl

@[simp] theorem driveOutputs_a (s : State) (y0 y1 : Word) (two illegal : Bool) : (s.driveOutputs y0 y1 two illegal).a = s.a := rfl
@[simp] theorem driveOutputs_b (s : State) (y0 y1 : Word) (two illegal : Bool) : (s.driveOutputs y0 y1 two illegal).b = s.b := rfl
@[simp] theorem driveOutputs_op (s : State) (y0 y1 : Word) (two illegal : Bool) : (s.driveOutputs y0 y1 two illegal).op = s.op := rfl
@[simp] theorem driveOutputs_y0 (s : State) (y0 y1 : Word) (two illegal : Bool) : (s.driveOutputs y0 y1 two illegal).y0 = y0 := rfl
@[simp] theorem driveOutputs_y1 (s : State) (y0 y1 : Word) (two illegal : Bool) : (s.driveOutputs y0 y1 two illegal).y1 = y1 := rfl
@[simp] theorem driveOutputs_two (s : State) (y0 y1 : Word) (two illegal : Bool) : (s.driveOutputs y0 y1 two illegal).two = two := rfl
@[simp] theorem driveOutputs_illegal (s : State) (y0 y1 : Word) (two illegal : Bool) : (s.driveOutputs y0 y1 two illegal).illegal = illegal := rfl

@[simp] theorem driveOne_a (s : State) (y : Word) : (s.driveOne y).a = s.a := rfl
@[simp] theorem driveOne_b (s : State) (y : Word) : (s.driveOne y).b = s.b := rfl
@[simp] theorem driveOne_op (s : State) (y : Word) : (s.driveOne y).op = s.op := rfl
@[simp] theorem driveOne_y0 (s : State) (y : Word) : (s.driveOne y).y0 = y := rfl
@[simp] theorem driveOne_y1 (s : State) (y : Word) : (s.driveOne y).y1 = 0 := rfl
@[simp] theorem driveOne_two (s : State) (y : Word) : (s.driveOne y).two = false := rfl
@[simp] theorem driveOne_illegal (s : State) (y : Word) : (s.driveOne y).illegal = false := rfl

@[simp] theorem driveTwo_a (s : State) (ya yb : Word) : (s.driveTwo ya yb).a = s.a := rfl
@[simp] theorem driveTwo_b (s : State) (ya yb : Word) : (s.driveTwo ya yb).b = s.b := rfl
@[simp] theorem driveTwo_op (s : State) (ya yb : Word) : (s.driveTwo ya yb).op = s.op := rfl
@[simp] theorem driveTwo_y0 (s : State) (ya yb : Word) : (s.driveTwo ya yb).y0 = ya := rfl
@[simp] theorem driveTwo_y1 (s : State) (ya yb : Word) : (s.driveTwo ya yb).y1 = yb := rfl
@[simp] theorem driveTwo_two (s : State) (ya yb : Word) : (s.driveTwo ya yb).two = true := rfl
@[simp] theorem driveTwo_illegal (s : State) (ya yb : Word) : (s.driveTwo ya yb).illegal = false := rfl

@[simp] theorem raiseIllegal_a (s : State) : s.raiseIllegal.a = s.a := rfl
@[simp] theorem raiseIllegal_b (s : State) : s.raiseIllegal.b = s.b := rfl
@[simp] theorem raiseIllegal_op (s : State) : s.raiseIllegal.op = s.op := rfl
@[simp] theorem raiseIllegal_y0 (s : State) : s.raiseIllegal.y0 = 0 := rfl
@[simp] theorem raiseIllegal_y1 (s : State) : s.raiseIllegal.y1 = 0 := rfl
@[simp] theorem raiseIllegal_two (s : State) : s.raiseIllegal.two = false := rfl
@[simp] theorem raiseIllegal_illegal (s : State) : s.raiseIllegal.illegal = true := rfl

@[simp] theorem withFetchWord_a (s : State) (nbits w : Nat) :
    (s.withFetchWord nbits w).a = s.a := rfl
@[simp] theorem withFetchWord_b (s : State) (nbits w : Nat) :
    (s.withFetchWord nbits w).b = s.b := rfl
@[simp] theorem withFetchWord_op (s : State) (nbits w : Nat) :
    (s.withFetchWord nbits w).op = tableWordCode w := rfl
@[simp] theorem withFetchWord_y0 (s : State) (nbits w : Nat) :
    (s.withFetchWord nbits w).y0 = (calculate s.a s.b (tableWordCode w)).y0 := rfl
@[simp] theorem withFetchWord_y1 (s : State) (nbits w : Nat) :
    (s.withFetchWord nbits w).y1 = (calculate s.a s.b (tableWordCode w)).y1 := rfl
@[simp] theorem withFetchWord_two (s : State) (nbits w : Nat) :
    (s.withFetchWord nbits w).two = (calculate s.a s.b (tableWordCode w)).two := rfl
@[simp] theorem withFetchWord_illegal (s : State) (nbits w : Nat) :
    (s.withFetchWord nbits w).illegal = (calculate s.a s.b (tableWordCode w)).illegal := rfl

@[simp] theorem setInputs_outputs (s : State) (a b : Word) (op : OpCode) :
    (s.setInputs a b op).outputs = s.outputs := rfl
@[simp] theorem settle_outputs (s : State) : s.settle.outputs = calculate s.a s.b s.op := rfl
@[simp] theorem driveInputs_outputs (s : State) (a b : Word) (op : OpCode) :
    (s.driveInputs a b op).outputs = calculate a b op := rfl
@[simp] theorem withFetchWord_outputs (s : State) (nbits w : Nat) :
    (s.withFetchWord nbits w).outputs = calculate s.a s.b (tableWordCode w) := rfl
@[simp] theorem driveOne_outputs (s : State) (y : Word) : (s.driveOne y).outputs = ⟨y, 0, false, false⟩ := rfl
@[simp] theorem driveTwo_outputs (s : State) (ya yb : Word) :
    (s.driveTwo ya yb).outputs = ⟨ya, yb, true, false⟩ := rfl
@[simp] theorem raiseIllegal_outputs (s : State) : s.raiseIllegal.outputs = ⟨0, 0, false, true⟩ := rfl

/-- Driving the inputs leaves nothing of what was on any port before. -/
theorem driveInputs_eq (s s' : State) (a b : Word) (op : OpCode) : s.driveInputs a b op = s'.driveInputs a b op := rfl

/-- Driving the inputs twice leaves what the second drive gives. -/
@[simp] theorem driveInputs_driveInputs (s : State) (a b a' b' : Word) (op op' : OpCode) :
    (s.driveInputs a b op).driveInputs a' b' op' = s.driveInputs a' b' op' := rfl

/-- Two states with the same inputs and the same outputs are the same. -/
theorem ext_ports {s t : State} (ha : s.a = t.a) (hb : s.b = t.b) (ho : s.op = t.op)
    (h : s.outputs = t.outputs) : s = t := by
  cases s
  cases t
  simp_all [outputs]

end Sys2Proof.Machine.State
end

