-- ==== Sys2Proof/Laws/Ops.lean ====
section
/-!
SUPPORT. What each primitive does, once: the value of every lane of its result as a number.
-/

namespace Sys2Proof.Machine

variable {W : Nat}

theorem laneCarry_eq_true_iff (x y : BitVec W) : laneCarry x y = true ↔ 2 ^ W ≤ x.toNat + y.toNat := by
  simp [laneCarry]

@[simp] theorem toNat_wrapAddLane (x y : BitVec W) :
    (wrapAddLane x y).toNat = (x.toNat + y.toNat) % 2 ^ W := by
  simp [wrapAddLane]

/-- The carry form of the saturating add is its `min` form (40_add.md R82). -/
@[simp] theorem toNat_satAddLane (x y : BitVec W) :
    (satAddLane x y).toNat = min (x.toNat + y.toNat) (2 ^ W - 1) := by
  have hp := Nat.two_pow_pos W
  by_cases h : laneCarry x y = true
  · have := (laneCarry_eq_true_iff x y).1 h
    simp only [satAddLane, h, if_true, BitVec.toNat_allOnes]
    omega
  · have h' : x.toNat + y.toNat < 2 ^ W := by
      rw [laneCarry_eq_true_iff] at h
      omega
    simp only [satAddLane, h, Bool.false_eq_true, if_false, BitVec.toNat_ofNat, Nat.mod_eq_of_lt h']
    omega

@[simp] theorem toNat_wrapIncLane (x : BitVec W) : (wrapIncLane x).toNat = (x.toNat + 1) % 2 ^ W := by
  simp [wrapIncLane]

@[simp] theorem toNat_satIncLane (x : BitVec W) :
    (satIncLane x).toNat = min (x.toNat + 1) (2 ^ W - 1) := by
  have hp := Nat.two_pow_pos W
  have hx := x.isLt
  by_cases h : x.toNat = 2 ^ W - 1
  · simp only [satIncLane, h, if_true, BitVec.toNat_allOnes]
    omega
  · have h' : x.toNat + 1 < 2 ^ W := by omega
    simp only [satIncLane, h, if_false, BitVec.toNat_ofNat, Nat.mod_eq_of_lt h']
    omega

/-- The product of two lanes fits the doubled lane (42_multiply.md R120). -/
theorem mul_lt_two_pow_two_mul (x y : BitVec W) : x.toNat * y.toNat < 2 ^ (2 * W) := by
  rw [Nat.two_mul, Nat.pow_add]
  exact Nat.mul_lt_mul'' x.isLt y.isLt

@[simp] theorem toNat_mulLane (x y : BitVec W) : (mulLane x y).toNat = x.toNat * y.toNat := by
  simp [mulLane, Nat.mod_eq_of_lt (mul_lt_two_pow_two_mul x y)]

theorem laneNum_wadd (hW : 0 < W) (a b : Word) {i : Nat} (hi : i < laneCount W) :
    laneNum W (wadd W a b) i = (laneNum W a i + laneNum W b i) % 2 ^ W := by
  simp [wadd, laneNum_pack hW _ hi, toNat_lane]

theorem laneNum_sadd (hW : 0 < W) (a b : Word) {i : Nat} (hi : i < laneCount W) :
    laneNum W (sadd W a b) i = min (laneNum W a i + laneNum W b i) (2 ^ W - 1) := by
  simp [sadd, laneNum_pack hW _ hi, toNat_lane]

theorem laneNum_winc (hW : 0 < W) (a : Word) {i : Nat} (hi : i < laneCount W) :
    laneNum W (winc W a) i = (laneNum W a i + 1) % 2 ^ W := by
  simp [winc, laneNum_pack hW _ hi, toNat_lane]

theorem laneNum_sinc (hW : 0 < W) (a : Word) {i : Nat} (hi : i < laneCount W) :
    laneNum W (sinc W a) i = min (laneNum W a i + 1) (2 ^ W - 1) := by
  simp [sinc, laneNum_pack hW _ hi, toNat_lane]

theorem laneNum_mull (hW : 0 < W) (a b : Word) {j : Nat} (hj : j < laneCount (2 * W)) :
    laneNum (2 * W) (mull W a b) j = laneNum W a (2 * j + 1) * laneNum W b (2 * j + 1) := by
  rw [mull, laneNum_pack (by omega) _ hj, toNat_mulLane, toNat_lane, toNat_lane]

theorem laneNum_oneInEveryLane (hW : 0 < W) {i : Nat} (hi : i < laneCount W) :
    laneNum W (oneInEveryLane W) i = 1 := by
  rw [oneInEveryLane, laneNum_pack hW _ hi, BitVec.toNat_ofNat, Nat.mod_eq_of_lt (Nat.one_lt_two_pow hW.ne')]

end Sys2Proof.Machine
end

