-- ==== Sys2Proof/Laws/Step.lean ====
section
/-!
SUPPORT. Say once what a step can do: it always answers a next state, it drives only output ports, and what it drives is a
function of the input ports.
-/

namespace Sys2Proof.Machine

/-- Every operation answers a next state that differs from `s` in the outputs only, and the outputs it drives are
a function of `A` and `B`. -/
theorem exec_cases (i : Instr) :
    (∃ f : Word → Word → Word, ∀ s, exec i s = .next (s.driveOne (f s.a s.b))) ∨
    (∃ f : Word → Word, ∀ s, exec i s = .next (s.driveTwo (f s.a) (f s.b))) := by
  cases i
  case paddb => exact .inl ⟨wadd 8, fun _ => rfl⟩
  case paddw => exact .inl ⟨wadd 16, fun _ => rfl⟩
  case paddd => exact .inl ⟨wadd 32, fun _ => rfl⟩
  case paddq => exact .inl ⟨wadd 64, fun _ => rfl⟩
  case paddsb => exact .inl ⟨sadd 8, fun _ => rfl⟩
  case paddsw => exact .inl ⟨sadd 16, fun _ => rfl⟩
  case paddsd => exact .inl ⟨sadd 32, fun _ => rfl⟩
  case paddsq => exact .inl ⟨sadd 64, fun _ => rfl⟩
  case pincb => exact .inr ⟨winc 8, fun _ => rfl⟩
  case pincw => exact .inr ⟨winc 16, fun _ => rfl⟩
  case pincd => exact .inr ⟨winc 32, fun _ => rfl⟩
  case pincq => exact .inr ⟨winc 64, fun _ => rfl⟩
  case pincsb => exact .inr ⟨sinc 8, fun _ => rfl⟩
  case pincsw => exact .inr ⟨sinc 16, fun _ => rfl⟩
  case pincsd => exact .inr ⟨sinc 32, fun _ => rfl⟩
  case pincsq => exact .inr ⟨sinc 64, fun _ => rfl⟩
  case pmullb => exact .inl ⟨mull 8, fun _ => rfl⟩
  case pmullw => exact .inl ⟨mull 16, fun _ => rfl⟩
  case pmulld => exact .inl ⟨mull 32, fun _ => rfl⟩

/-- What a step can do: run a decoded operation, or take the illegal-operation outcome. -/
theorem step_cases (s : State) :
    (∃ i, decode s.op = .ok i ∧ step s = exec i s) ∨
    (∃ e, decode s.op = .error e ∧ step s = .next s.raiseIllegal) := by
  cases h : decode s.op with
  | ok i => exact .inl ⟨i, rfl, by simp [step, h]⟩
  | error e => exact .inr ⟨e, rfl, by simp [step, h]⟩

/-- A step drives four output values and touches no input port. -/
theorem step_drives (s : State) : ∃ y0 y1 two illegal, step s = .next (s.driveOutputs y0 y1 two illegal) := by
  obtain ⟨i, -, h⟩ | ⟨e, -, h⟩ := step_cases s
  · obtain ⟨f, hf⟩ | ⟨f, hf⟩ := exec_cases i
    · exact ⟨_, _, _, _, h.trans (hf s)⟩
    · exact ⟨_, _, _, _, h.trans (hf s)⟩
  · exact ⟨_, _, _, _, h⟩

end Sys2Proof.Machine
end

