-- ==== Sys2Proof/Laws/Calc.lean ====
section
/-!
SUPPORT. The function `calc` on the code of an operation, on an illegal code, and a run of the machine one step at a time.
-/

namespace Sys2Proof.Machine

/-- Decoding by fields reads back the kind and the width of an operation's code. -/
theorem decodeFields_encode (i : Instr) : decodeFields (encode i) = some (i.kind, i.width) := by
  cases i <;> decide

/-- The illegal codes decode to no fields. -/
theorem decodeFields_illegal : ∀ op : OpCode, 0x13 ≤ op.toNat → decodeFields op = none := by decide

theorem calculate_illegal (a b : Word) (op : OpCode) (h : 0x13 ≤ op.toNat) :
    calculate a b op = ⟨0, 0, false, true⟩ := by
  simp [calculate, decodeFields_illegal op h]

theorem calculate_encode (i : Instr) (a b : Word) :
    calculate a b (encode i) =
      match i.kind with
      | .add => ⟨wadd i.width.bits a b, 0, false, false⟩
      | .adds => ⟨sadd i.width.bits a b, 0, false, false⟩
      | .inc => ⟨winc i.width.bits a, winc i.width.bits b, true, false⟩
      | .incs => ⟨sinc i.width.bits a, sinc i.width.bits b, true, false⟩
      | .mull => ⟨mull i.width.bits a b, 0, false, false⟩ := by
  rw [calculate, decodeFields_encode]
  cases i.kind <;> rfl

/-- The fields of an operation's code, as the statements read them. -/
@[simp] theorem kindField_encode (i : Instr) : kindField (encode i) = i.kind.code.toNat := by
  cases i <;> decide

@[simp] theorem widthField_encode (i : Instr) : widthField (encode i) = i.width.bits := by
  cases i <;> decide

theorem toNat_encode_lt (i : Instr) : (encode i).toNat < 0x13 := by
  cases i <;> decide

theorem isLaneWidth_bits (wd : Width) : IsLaneWidth wd.bits := by
  cases wd <;> decide

/-- A run of any machine goes on from the state a step answers. -/
theorem run_succ_of_next (M : Host.Core) (k : Nat) {s t : M.State} (h : M.step s = .next t) :
    M.run (k + 1) s = M.run k t := by
  rw [Host.Core.run, h]

/-- A run of this machine goes on from the state a step answers. -/
theorem run_of_step_next {s t : State} (k : Nat) (h : step s = .next t) :
    Host.Core.run core (k + 1) s = Host.Core.run core k t :=
  run_succ_of_next core k h

end Sys2Proof.Machine
end

