-- ==== Sys2Proof/Laws/Host.lean ====
section
/-!
SUPPORT. The host variables (read after write, the canonical form), the storing of a result, and what a host-program step
can do.
-/

namespace Sys2Proof.Machine

@[simp] theorem readVar_writeVar_same (n : Nat) (v : Word) (vars : List (Nat × Word)) :
    readVar n (writeVar n v vars) = v := by
  induction vars with
  | nil => simp [writeVar, readVar]
  | cons p rest ih =>
    obtain ⟨m, u⟩ := p
    unfold writeVar
    split_ifs with h1 h2
    · simp [readVar]
    · simp [readVar]
    · simp [readVar, Ne.symm h2, ih]

theorem readVar_writeVar_other {k n : Nat} (hk : k ≠ n) (v : Word) (vars : List (Nat × Word)) :
    readVar k (writeVar n v vars) = readVar k vars := by
  induction vars with
  | nil => simp [writeVar, readVar, Ne.symm hk]
  | cons p rest ih =>
    obtain ⟨m, u⟩ := p
    unfold writeVar
    split_ifs with h1 h2
    · simp [readVar, Ne.symm hk]
    · subst h2
      simp [readVar, Ne.symm hk]
    · simp [readVar, ih]

/-- The number of the first listed variable, if any, exceeds `m`. -/
theorem varsRise_cons_iff (m : Nat) (u : Word) (rest : List (Nat × Word)) :
    varsRise ((m, u) :: rest) = true ↔ (∀ p ∈ rest.head?, m < p.1) ∧ varsRise rest = true := by
  cases rest with
  | nil => simp [varsRise]
  | cons p rest => simp [varsRise]

theorem head?_writeVar (n : Nat) (v : Word) (vars : List (Nat × Word)) :
    ∀ p ∈ (writeVar n v vars).head?, p.1 = n ∨ ∃ q ∈ vars.head?, p.1 = q.1 := by
  cases vars with
  | nil => simp [writeVar]
  | cons q rest =>
    obtain ⟨m, u⟩ := q
    unfold writeVar
    split_ifs <;> simp

/-- Writing a host variable keeps the canonical form. -/
theorem varsRise_writeVar (n : Nat) (v : Word) (vars : List (Nat × Word)) (h : varsRise vars = true) :
    varsRise (writeVar n v vars) = true := by
  induction vars with
  | nil => simp [writeVar, varsRise]
  | cons p rest ih =>
    obtain ⟨m, u⟩ := p
    have hr := (varsRise_cons_iff m u rest).1 h
    unfold writeVar
    split_ifs with h1 h2
    · exact (varsRise_cons_iff _ _ _).2 ⟨by simpa using h1, h⟩
    · subst h2
      exact (varsRise_cons_iff _ _ _).2 hr
    · refine (varsRise_cons_iff _ _ _).2 ⟨fun p hp => ?_, ih hr.2⟩
      obtain hpn | ⟨q, hq, hpq⟩ := head?_writeVar n v rest p hp
      · omega
      · have := hr.1 q hq
        omega

/-- What a host-program step can do: the ALU's invocation answers some `t`, and then the step faults because `t` is an
illegal outcome, or is refused because its destinations do not fit, or stores. -/
theorem hostStep_cases (p : HostStep) (h : HostState) :
    ∃ t, invoke h.alu (p.invocation h.vars) = .next t ∧
      ((t.outputs.result = none ∧ hostStep p h = .fault (.illegalOperation t.op)) ∨
       (∃ r, t.outputs.result = some r ∧ p.store r h.vars = none ∧ hostStep p h = .refused .malformedHostStep) ∨
       (∃ r vars, t.outputs.result = some r ∧ p.store r h.vars = some vars ∧ hostStep p h = .next ⟨vars, t⟩)) := by
  obtain ⟨y0, y1, two, illegal, hs⟩ := step_drives
    (h.alu.driveInputs (p.invocation h.vars).a (p.invocation h.vars).b (p.invocation h.vars).op)
  refine ⟨_, hs, ?_⟩
  unfold hostStep invoke
  rw [hs]
  cases hr : State.outputs _ |>.result with
  | none => exact .inl ⟨rfl, by simp [hr]⟩
  | some r =>
    cases hst : p.store r h.vars with
    | none => exact .inr (.inl ⟨r, rfl, hst, by simp [hr, hst]⟩)
    | some vars => exact .inr (.inr ⟨r, vars, rfl, hst, by simp [hr, hst]⟩)

/-- Storing a result only writes host variables, so it keeps their canonical form. -/
theorem store_varsRise {p : HostStep} {r : CalculationResult} {vars vars' : List (Nat × Word)}
    (h : p.store r vars = some vars') (hv : varsRise vars = true) : varsRise vars' = true := by
  cases p <;> cases r <;> simp only [HostStep.store, Option.some.injEq, reduceCtorEq] at h <;> subst h
  · exact varsRise_writeVar _ _ _ hv
  · exact varsRise_writeVar _ _ _ (varsRise_writeVar _ _ _ hv)
  · exact varsRise_writeVar _ _ _ hv

end Sys2Proof.Machine
end

