-- ==== Sys2Proof/Laws/PerInstr.lean ====
section
/-!
SUPPORT. The statements made per instruction: the fields of each operation's code (30_encoding.md R50 to R52).
-/

namespace Sys2Proof.Laws

/-- The code's `KIND` and `WIDTH` fields are those of the operation's kind and width, which name an operation, and
reading the fields back gives them (30_encoding.md R50, R60). -/
def Encoding.Statement (i : Instr) : Prop :=
  (encode i).extractLsb' 2 3 = i.kind.code ∧ (encode i).extractLsb' 0 2 = i.width.code ∧
    i.wellFormed = true ∧ decodeFields (encode i) = some (i.kind, i.width)

theorem Encoding.paddb : Encoding.Statement .paddb := by unfold Encoding.Statement; decide
theorem Encoding.paddw : Encoding.Statement .paddw := by unfold Encoding.Statement; decide
theorem Encoding.paddd : Encoding.Statement .paddd := by unfold Encoding.Statement; decide
theorem Encoding.paddq : Encoding.Statement .paddq := by unfold Encoding.Statement; decide
theorem Encoding.paddsb : Encoding.Statement .paddsb := by unfold Encoding.Statement; decide
theorem Encoding.paddsw : Encoding.Statement .paddsw := by unfold Encoding.Statement; decide
theorem Encoding.paddsd : Encoding.Statement .paddsd := by unfold Encoding.Statement; decide
theorem Encoding.paddsq : Encoding.Statement .paddsq := by unfold Encoding.Statement; decide
theorem Encoding.pincb : Encoding.Statement .pincb := by unfold Encoding.Statement; decide
theorem Encoding.pincw : Encoding.Statement .pincw := by unfold Encoding.Statement; decide
theorem Encoding.pincd : Encoding.Statement .pincd := by unfold Encoding.Statement; decide
theorem Encoding.pincq : Encoding.Statement .pincq := by unfold Encoding.Statement; decide
theorem Encoding.pincsb : Encoding.Statement .pincsb := by unfold Encoding.Statement; decide
theorem Encoding.pincsw : Encoding.Statement .pincsw := by unfold Encoding.Statement; decide
theorem Encoding.pincsd : Encoding.Statement .pincsd := by unfold Encoding.Statement; decide
theorem Encoding.pincsq : Encoding.Statement .pincsq := by unfold Encoding.Statement; decide
theorem Encoding.pmullb : Encoding.Statement .pmullb := by unfold Encoding.Statement; decide
theorem Encoding.pmullw : Encoding.Statement .pmullw := by unfold Encoding.Statement; decide
theorem Encoding.pmulld : Encoding.Statement .pmulld := by unfold Encoding.Statement; decide

end Sys2Proof.Laws
end

