-- ==== Sys2Proof/Tests/Slice0.lean ====
section
/-!
SUPPORT. Tests: the smoke of WellFormed, one written code per operation, at most two vectors per operation, the illegal codes,
the host layer, and for each statement with hypotheses a witness that meets them.
Every expected value is the spec's: the codes of 30_encoding.md R54, the vectors of 95_test_vectors.md section 2 and the
examples of the operations' own rules; a test's comment names its source where that is another one.
-/

open Sys2Proof Sys2Proof.Machine

namespace Sys2Proof.Tests

/-! ### Well-formedness -/

/-- The one combination that names no operation is refused (42_multiply.md R126). -/
theorem test_wellFormed_refuses_q_multiply : kindWidthOk .mull .q = false := by decide

theorem test_wellFormed_accepts_pmulld : Instr.wellFormed .pmulld = true := by decide

/-! ### Decoding: each operation's code written out from the map of 30_encoding.md R54 -/

theorem test_decode_paddb : decode 0b00000#5 = .ok .paddb := by decide
theorem test_decode_paddw : decode 0b00001#5 = .ok .paddw := by decide
theorem test_decode_paddd : decode 0b00010#5 = .ok .paddd := by decide
theorem test_decode_paddq : decode 0b00011#5 = .ok .paddq := by decide
theorem test_decode_paddsb : decode 0b00100#5 = .ok .paddsb := by decide
theorem test_decode_paddsw : decode 0b00101#5 = .ok .paddsw := by decide
theorem test_decode_paddsd : decode 0b00110#5 = .ok .paddsd := by decide
theorem test_decode_paddsq : decode 0b00111#5 = .ok .paddsq := by decide
theorem test_decode_pincb : decode 0b01000#5 = .ok .pincb := by decide
theorem test_decode_pincw : decode 0b01001#5 = .ok .pincw := by decide
theorem test_decode_pincd : decode 0b01010#5 = .ok .pincd := by decide
theorem test_decode_pincq : decode 0b01011#5 = .ok .pincq := by decide
theorem test_decode_pincsb : decode 0b01100#5 = .ok .pincsb := by decide
theorem test_decode_pincsw : decode 0b01101#5 = .ok .pincsw := by decide
theorem test_decode_pincsd : decode 0b01110#5 = .ok .pincsd := by decide
theorem test_decode_pincsq : decode 0b01111#5 = .ok .pincsq := by decide
theorem test_decode_pmullb : decode 0b10000#5 = .ok .pmullb := by decide
theorem test_decode_pmullw : decode 0b10001#5 = .ok .pmullw := by decide
theorem test_decode_pmulld : decode 0b10010#5 = .ok .pmulld := by decide
theorem test_decode_rejects_q_multiply : decode 0b10011#5 = .error .noQMultiply := by decide
theorem test_decode_rejects_kind_101 : decode 0b10100#5 = .error .unassignedKind := by decide
theorem test_decode_rejects_all_ones : decode 0b11111#5 = .error .unassignedKind := by decide
theorem test_encode_pincsd : encode .pincsd = 0b01110#5 := by decide
theorem test_table_word_pmullb : decodeTableWord 8 0x10 = some .pmullb := by decide
theorem test_table_word_illegal : decodeTableWord 8 0x13 = none := by decide
theorem test_mnemonic_paddsb : Instr.ofMnemonic "PADDSB" = some .paddsb := by decide
theorem test_mnemonic_pmullq_absent : Instr.ofMnemonic "PMULLQ" = none := by decide

/-! ### One invocation per operation -/

/-- The ports with the given inputs and outputs that no moment leaves there, so that a test sees the step drive all four. -/
def portsWith (a b : Word) (op : OpCode) : State :=
  { a := a, b := b, op := op, y0 := 0xDEAD, y1 := 0xBEEF, two := true, illegal := true }

/-- The outputs of an outcome, where it is a next state. -/
def outputsOf : Host.Outcome State Fault Refusal → Option Outputs
  | .next t => some t.outputs
  | .fault _ => none
  | .refused _ => none

/-- The outputs after one step on the given inputs. -/
def outputsAfter (op : OpCode) (a b : Word) : Option Outputs := outputsOf (step (portsWith a b op))

theorem test_paddb_carry_stays_in_its_lane : outputsAfter 0x00#5 0xFFFFFFFFFFFFFFFF 0x0000000000000001 =
    some ⟨0xFFFFFFFFFFFFFF00, 0x0000000000000000, false, false⟩ := by decide
theorem test_paddb_operands_added : outputsAfter 0x00#5 0x0123456789ABCDEF 0x0101010101010101 =
    some ⟨0x022446688AACCEF0, 0x0000000000000000, false, false⟩ := by decide
theorem test_paddw_only_top_lane_wraps : outputsAfter 0x01#5 0x7FFF7FFF7FFF7FFF 0x8001800080008000 =
    some ⟨0x0000FFFFFFFFFFFF, 0x0000000000000000, false, false⟩ := by decide
theorem test_paddw_byte_carry_kept : outputsAfter 0x01#5 0x00FF00FF00FF00FF 0x0001000100010001 =
    some ⟨0x0100010001000100, 0x0000000000000000, false, false⟩ := by decide
theorem test_paddd_lane_zero_wraps : outputsAfter 0x02#5 0xFFFFFFFFFFFFFFFF 0x0000000000000001 =
    some ⟨0xFFFFFFFF00000000, 0x0000000000000000, false, false⟩ := by decide
theorem test_paddd_max_plus_max : outputsAfter 0x02#5 0xFFFFFFFFFFFFFFFF 0xFFFFFFFFFFFFFFFF =
    some ⟨0xFFFFFFFEFFFFFFFE, 0x0000000000000000, false, false⟩ := by decide
theorem test_paddq_wraps : outputsAfter 0x03#5 0xFFFFFFFFFFFFFFFF 0x0000000000000001 =
    some ⟨0x0000000000000000, 0x0000000000000000, false, false⟩ := by decide
theorem test_paddq_doubles : outputsAfter 0x03#5 0x8080808080808080 0x8080808080808080 =
    some ⟨0x0101010101010100, 0x0000000000000000, false, false⟩ := by decide
theorem test_paddsb_clamps_low_byte : outputsAfter 0x04#5 0x00000000000000FF 0x0000000000000001 =
    some ⟨0x00000000000000FF, 0x0000000000000000, false, false⟩ := by decide
theorem test_paddsb_exact_max_is_no_clamp : outputsAfter 0x04#5 0x0F0F0F0F0F0F0F0F 0xF0F0F0F0F0F0F0F0 =
    some ⟨0xFFFFFFFFFFFFFFFF, 0x0000000000000000, false, false⟩ := by decide
theorem test_paddsw_byte_carry_is_no_clamp : outputsAfter 0x05#5 0x00FF00FF00FF00FF 0x0001000100010001 =
    some ⟨0x0100010001000100, 0x0000000000000000, false, false⟩ := by decide
theorem test_paddsw_top_lane_clamps : outputsAfter 0x05#5 0x7FFF7FFF7FFF7FFF 0x8001800080008000 =
    some ⟨0xFFFFFFFFFFFFFFFF, 0x0000000000000000, false, false⟩ := by decide
theorem test_paddsd_low_byte_carry : outputsAfter 0x06#5 0x00000000000000FF 0x0000000000000001 =
    some ⟨0x0000000000000100, 0x0000000000000000, false, false⟩ := by decide
theorem test_paddsd_both_lanes_clamp : outputsAfter 0x06#5 0x8080808080808080 0x8080808080808080 =
    some ⟨0xFFFFFFFFFFFFFFFF, 0x0000000000000000, false, false⟩ := by decide
theorem test_paddsq_clamps : outputsAfter 0x07#5 0xFFFFFFFFFFFFFFFF 0x0000000000000001 =
    some ⟨0xFFFFFFFFFFFFFFFF, 0x0000000000000000, false, false⟩ := by decide
theorem test_paddsq_exact_sum : outputsAfter 0x07#5 0x00FF00FF00FF00FF 0x0001000100010001 =
    some ⟨0x0100010001000100, 0x0000000000000000, false, false⟩ := by decide
theorem test_pincb_source_case : outputsAfter 0x08#5 0x0000000000000005 0x0000000000000009 =
    some ⟨0x0101010101010106, 0x010101010101010A, true, false⟩ := by decide
theorem test_pincb_wraps_apart : outputsAfter 0x08#5 0xFFFFFFFFFFFFFFFE 0x00000000FFFFFFFF =
    some ⟨0x00000000000000FF, 0x0101010100000000, true, false⟩ := by decide
theorem test_pincw_source_case : outputsAfter 0x09#5 0x0000000000000005 0x0000000000000009 =
    some ⟨0x0001000100010006, 0x000100010001000A, true, false⟩ := by decide
theorem test_pincw_wraps_apart : outputsAfter 0x09#5 0xFFFFFFFFFFFFFFFE 0x00000000FFFFFFFF =
    some ⟨0x000000000000FFFF, 0x0001000100000000, true, false⟩ := by decide
theorem test_pincd_byte_patterns : outputsAfter 0x0A#5 0x00FF00FF00FF00FF 0x7FFFFFFFFFFFFFFF =
    some ⟨0x00FF010000FF0100, 0x8000000000000000, true, false⟩ := by decide
theorem test_pincd_wraps_apart : outputsAfter 0x0A#5 0xFFFFFFFFFFFFFFFE 0x00000000FFFFFFFF =
    some ⟨0x00000000FFFFFFFF, 0x0000000100000000, true, false⟩ := by decide
theorem test_pincq_wraps_a_only : outputsAfter 0x0B#5 0xFFFFFFFFFFFFFFFF 0x0000000000000000 =
    some ⟨0x0000000000000000, 0x0000000000000001, true, false⟩ := by decide
theorem test_pincq_carries_within_lane : outputsAfter 0x0B#5 0xFFFFFFFFFFFFFFFE 0x00000000FFFFFFFF =
    some ⟨0xFFFFFFFFFFFFFFFF, 0x0000000100000000, true, false⟩ := by decide
theorem test_pincsb_byte_patterns : outputsAfter 0x0C#5 0x00FF00FF00FF00FF 0x7FFFFFFFFFFFFFFF =
    some ⟨0x01FF01FF01FF01FF, 0x80FFFFFFFFFFFFFF, true, false⟩ := by decide
theorem test_pincsb_half_saturates : outputsAfter 0x0C#5 0xFFFFFFFFFFFFFFFE 0x00000000FFFFFFFF =
    some ⟨0xFFFFFFFFFFFFFFFF, 0x01010101FFFFFFFF, true, false⟩ := by decide
theorem test_pincsw_byte_patterns : outputsAfter 0x0D#5 0x00FF00FF00FF00FF 0x7FFFFFFFFFFFFFFF =
    some ⟨0x0100010001000100, 0x8000FFFFFFFFFFFF, true, false⟩ := by decide
theorem test_pincsw_half_saturates : outputsAfter 0x0D#5 0xFFFFFFFFFFFFFFFE 0x00000000FFFFFFFF =
    some ⟨0xFFFFFFFFFFFFFFFF, 0x00010001FFFFFFFF, true, false⟩ := by decide
theorem test_pincsd_source_inputs : outputsAfter 0x0E#5 0x0000000000000005 0x0000000000000009 =
    some ⟨0x0000000100000006, 0x000000010000000A, true, false⟩ := by decide
theorem test_pincsd_half_saturates : outputsAfter 0x0E#5 0xFFFFFFFFFFFFFFFE 0x00000000FFFFFFFF =
    some ⟨0xFFFFFFFFFFFFFFFF, 0x00000001FFFFFFFF, true, false⟩ := by decide
theorem test_pincsq_saturates_a_only : outputsAfter 0x0F#5 0xFFFFFFFFFFFFFFFF 0x0000000000000000 =
    some ⟨0xFFFFFFFFFFFFFFFF, 0x0000000000000001, true, false⟩ := by decide
theorem test_pincsq_byte_patterns : outputsAfter 0x0F#5 0x00FF00FF00FF00FF 0x7FFFFFFFFFFFFFFF =
    some ⟨0x00FF00FF00FF0100, 0x8000000000000000, true, false⟩ := by decide
theorem test_pmullb_odd_lanes_times_one : outputsAfter 0x10#5 0x0123456789ABCDEF 0x0101010101010101 =
    some ⟨0x00010045008900CD, 0x0000000000000000, false, false⟩ := by decide
theorem test_pmullb_even_lanes_ignored : outputsAfter 0x10#5 0x0A00140000FF00FF 0x0300020000020002 =
    some ⟨0x001E002800000000, 0x0000000000000000, false, false⟩ := by decide
theorem test_pmullw_squares : outputsAfter 0x11#5 0x0003000000020000 0x0003000000020000 =
    some ⟨0x0000000900000004, 0x0000000000000000, false, false⟩ := by decide
theorem test_pmullw_max_times_max : outputsAfter 0x11#5 0xFFFFFFFFFFFFFFFF 0xFFFFFFFFFFFFFFFF =
    some ⟨0xFFFE0001FFFE0001, 0x0000000000000000, false, false⟩ := by decide
theorem test_pmulld_upper_halves : outputsAfter 0x12#5 0xFFFFFFFF00000000 0x0000000200000000 =
    some ⟨0x00000001FFFFFFFE, 0x0000000000000000, false, false⟩ := by decide
theorem test_pmulld_max_times_max : outputsAfter 0x12#5 0xFFFFFFFFFFFFFFFF 0xFFFFFFFFFFFFFFFF =
    some ⟨0xFFFFFFFE00000001, 0x0000000000000000, false, false⟩ := by decide

/-! ### The outputs follow the inputs before any step (10_state.md R39; 95_test_vectors.md S4 and rule R141) -/

theorem test_driven_outputs_follow :
    (State.reset.driveInputs 5 9 0x08#5).outputs = ⟨0x0101010101010106, 0x010101010101010A, true, false⟩ := by decide
theorem test_fetch_word_outputs_follow :
    ((State.reset.driveInputs 5 9 0x08#5).withFetchWord 8 0x13).outputs = ⟨0, 0, false, true⟩ := by decide

/-! ### Illegal codes (95_test_vectors.md, rule R141) -/

theorem test_illegal_q_multiply_slot : outputsAfter 0x13#5 0x0000000200000000 0x0000000300000000 =
    some ⟨0, 0, false, true⟩ := by decide
theorem test_illegal_all_ones_code : outputsAfter 0x1F#5 0x0123456789ABCDEF 0xFEDCBA9876543210 =
    some ⟨0, 0, false, true⟩ := by decide

/-! ### The primitive no code reaches (95_test_vectors.md S12) -/

theorem test_mull64_wraps : mull64 0x0000000100000000 0x0000000100000000 = 0 := by decide
theorem test_mull64_product : mull64 3 5 = 0xF := by decide

/-! ### Lanes (95_test_vectors.md S7) -/

theorem test_lane_zero_is_least_significant : lane 16 0x0123456789ABCDEF 0 = 0xCDEF#16 := by decide
theorem test_lane_three_is_most_significant : lane 16 0x0123456789ABCDEF 3 = 0x0123#16 := by decide

/-! ### The host layer -/

/-- The host variables of an outcome, where it is a next state. -/
def varsOf : Host.Outcome HostState Fault Refusal → Option (List (Nat × Word))
  | .next h => some h.vars
  | .fault _ => none
  | .refused _ => none

/-- The fault of an outcome, where it is one. -/
def faultOf : Host.Outcome HostState Fault Refusal → Option Fault
  | .next _ => none
  | .fault f => some f
  | .refused _ => none

/-- The refusal of an outcome, where it is one. -/
def refusalOf : Host.Outcome HostState Fault Refusal → Option Refusal
  | .next _ => none
  | .fault _ => none
  | .refused r => some r

/-- 95_test_vectors.md P4, step 2: the operand variable is read before it is written. -/
theorem test_host_step_reads_before_storing :
    varsOf (hostStep (.two 0 1 .pincsq (.var 0) (.var 0)) ⟨[(0, 2)], State.reset⟩) = some [(0, 3), (1, 3)] := by decide

/-- 95_test_vectors.md P1, step 1. -/
theorem test_host_step_stores_one_result :
    varsOf (hostStep (.one 2 .paddsb (.var 0) (.var 1))
      ⟨[(0, 0x10F0F8FE00000080), (1, 0x1010101010101010)], State.reset⟩) =
    some [(0, 0x10F0F8FE00000080), (1, 0x1010101010101010), (2, 0x20FFFFFF10101090)] := by decide

/-- 95_test_vectors.md P5, step 2: an illegal code ends the program with a fault. -/
theorem test_host_step_illegal_code_faults :
    faultOf (hostStep (.raw 3 0x13#5 (.var 0) (.var 1)) ⟨[(0, 1), (1, 2), (2, 3)], State.reset⟩) =
      some (.illegalOperation 0x13#5) := by decide

/-- Log entry 11: an increment operation with one destination is no step of 30_encoding.md R58. -/
theorem test_host_step_malformed_is_refused :
    refusalOf (hostStep (.one 0 .pincb (.lit 1) (.lit 2)) ⟨[], State.reset⟩) = some .malformedHostStep := by decide

theorem test_front_end_missing_field_is_refused :
    outputsOf (frontEndCall State.reset .paddb (some 1) none) = none := by decide

/-- 70_reset_and_hazards.md R168. -/
theorem test_render : render 0x0123456789ABCDEF = "0123456789ABCDEF" := by decide

theorem test_render_pads : render 0x2A = "000000000000002A" := by decide

/-- 95_test_vectors.md P1, step 1. -/
theorem test_step_text : (HostStep.one 2 .paddsb (.var 0) (.var 1)).text = "h2 <- PADDSB h0, h1" := by decide

/-- 95_test_vectors.md P5, step 2. -/
theorem test_raw_step_text : (HostStep.raw 3 0x13#5 (.var 0) (.var 1)).text = "h3 <- OP=0x13 h0, h1" := by decide

/-! ### Witnesses: the hypotheses of the statements are met -/

/-- A conforming state with an increment code: PINCB of 0 and all ones (41_increment.md R103). -/
def conformingIncrement : State :=
  { a := 0, b := 0xFFFFFFFFFFFFFFFF, op := 0x08#5, y0 := 0x0101010101010101, y1 := 0, two := true, illegal := false }

theorem witness_OutputsFollowInputs :
    step conformingIncrement = .next conformingIncrement ∧ OutputsFollow conformingIncrement := by
  refine ⟨?_, by unfold OutputsFollow; decide⟩
  rw [show step conformingIncrement =
    .next (conformingIncrement.driveTwo (winc 8 conformingIncrement.a) (winc 8 conformingIncrement.b)) from rfl]
  exact congrArg _ (by decide)

/-- A moment after power-up at which the host has driven an illegal code (OutputsFollowAtEveryMoment). -/
theorem witness_OutputsFollowAtEveryMoment : PortMoment (State.reset.driveInputs 1 2 0x13#5) := .driven _ 1 2 _ .first

theorem witness_DecodeEncodeAgree : Instr.wellFormed .pmulld = true ∧ decode 0x12#5 = .ok .pmulld := by decide

theorem witness_RejectedCodesAreThirteen : 0x14 ≤ (0x14#5).toNat ∧ 0x14 ≤ (0x1F#5).toNat := by decide

theorem witness_MnemonicsNameOperations : Instr.mnemonic .paddsb = Instr.mnemonic .paddsb := rfl

theorem witness_StepRunsDecodedOperation : decode (portsWith 1 2 0x12#5).op = .ok .pmulld := by decide

theorem witness_DrivenWordRunsNext : decodeTableWord 8 0x00 = some .paddb ∧ decodeTableWord 8 0x12 = some .pmulld := by
  decide

theorem conformingIncrement_conforms : PortsConform conformingIncrement := by
  refine ⟨fun h => absurd h (by decide), by decide, by decide, by decide, by decide, by decide, by decide⟩

theorem witness_StepKeepsPortsConforming :
    PortsConform conformingIncrement ∧ step conformingIncrement = .next conformingIncrement :=
  ⟨conformingIncrement_conforms, witness_OutputsFollowInputs.1⟩

theorem witness_ConformingPortsAreDetermined :
    PortsConform conformingIncrement ∧ PortsConform conformingIncrement ∧ SameInputs conformingIncrement conformingIncrement :=
  ⟨conformingIncrement_conforms, conformingIncrement_conforms, rfl, rfl, rfl⟩

theorem witness_StepDependsOnInputsOnly :
    SameInputs conformingIncrement (portsWith 0 0xFFFFFFFFFFFFFFFF 0x08#5) ∧
      conformingIncrement.outputs ≠ (portsWith 0 0xFFFFFFFFFFFFFFFF 0x08#5).outputs :=
  ⟨⟨rfl, rfl, rfl⟩, by decide⟩

/-- An illegal invocation, the mark it leaves, and a legal one to follow it. -/
theorem witness_IllegalInvocationLeavesNoTrace :
    0x13 ≤ (portsWith 1 2 0x13#5).op.toNat ∧
      step (portsWith 1 2 0x13#5) = .next (portsWith 1 2 0x13#5).raiseIllegal ∧
      ((portsWith 1 2 0x13#5).raiseIllegal.setInputs 5 9 0x08#5).illegal = true :=
  ⟨by decide, rfl, rfl⟩

theorem test_step_after_illegal_clears_its_mark :
    outputsOf (step ((portsWith 1 2 0x13#5).raiseIllegal.setInputs 5 9 0x08#5)) =
      some ⟨0x0101010101010106, 0x010101010101010A, true, false⟩ := by decide

theorem witness_InvocationOrderIsIrrelevant :
    [(⟨1, 2, 0x00#5⟩ : Invocation), ⟨3, 4, 0x13#5⟩].Perm [⟨3, 4, 0x13#5⟩, ⟨1, 2, 0x00#5⟩] := List.Perm.swap _ _ _

theorem witness_IllegalOperationOutcome :
    0x13 ≤ (portsWith 1 2 0x13#5).op.toNat ∧ 0x13 ≤ (0x13#5).toNat ∧ 0x13 ≤ (0x1F#5).toNat := by decide

theorem witness_ResultShapePorts :
    0x08 ≤ (0x08#5).toNat ∧ (0x08#5).toNat ≤ 0x0B ∧ (0x0B#5).toNat ≤ 0x0B ∧
    0x0C ≤ (0x0C#5).toNat ∧ (0x0C#5).toNat ≤ 0x0F ∧ (0x0F#5).toNat ≤ 0x0F ∧
    outputsAfter 0x00#5 1 2 = some ⟨3, 0, false, false⟩ := by decide

theorem witness_TaggedResultFollowsTwo :
    (0x07#5).toNat < 0x08 ∧ 0x10 ≤ (0x10#5).toNat ∧ (0x12#5).toNat < 0x13 ∧
    0x08 ≤ (0x08#5).toNat ∧ (0x0B#5).toNat < 0x0C ∧ 0x0C ≤ (0x0C#5).toNat ∧ (0x0F#5).toNat < 0x10 := by decide

theorem witness_PackedWrappingAddResult :
    (Instr.paddq, 0x03#5, 64) ∈ [(Instr.paddb, 0x00#5, 8), (.paddw, 0x01#5, 16), (.paddd, 0x02#5, 32), (.paddq, 0x03#5, 64)] ∧
      0 < 64 / 64 := by decide

theorem witness_PackedSaturatingAddResult :
    (portsWith 0x00FF00FF00FF00FF 0x0001000100010001 0x04#5).a = 0x00FF00FF00FF00FF ∧
    (portsWith 0x00FF00FF00FF00FF 0x0001000100010001 0x04#5).b = 0x0001000100010001 ∧
    (portsWith 0xFFFFFFFFFFFFFFFF 1 0x07#5).a = 0xFFFFFFFFFFFFFFFF ∧ (portsWith 0xFFFFFFFFFFFFFFFF 1 0x07#5).b = 1 ∧
    (Instr.paddsb, 0x04#5, 8) ∈ [(Instr.paddsb, 0x04#5, 8), (.paddsw, 0x05#5, 16), (.paddsd, 0x06#5, 32), (.paddsq, 0x07#5, 64)] ∧
    7 < 64 / 8 := by decide

theorem witness_PackedWrappingIncrementResult :
    (Instr.pincw, 0x09#5, 16) ∈ [(Instr.pincb, 0x08#5, 8), (.pincw, 0x09#5, 16), (.pincd, 0x0A#5, 32), (.pincq, 0x0B#5, 64)] ∧
      3 < 64 / 16 := by decide

theorem witness_PackedSaturatingIncrementResult :
    (Instr.pincsd, 0x0E#5, 32) ∈ [(Instr.pincsb, 0x0C#5, 8), (.pincsw, 0x0D#5, 16), (.pincsd, 0x0E#5, 32), (.pincsq, 0x0F#5, 64)] ∧
      1 < 64 / 32 := by decide

theorem witness_OddLaneMultiplyResult :
    (Instr.pmulld, 0x12#5, 32) ∈ [(Instr.pmullb, 0x10#5, 8), (.pmullw, 0x11#5, 16), (.pmulld, 0x12#5, 32)] ∧
      0 < 64 / 32 / 2 := by decide

theorem witness_LaneIsBitField : 64 ∈ [8, 16, 32, 64] ∧ 0 < 64 / 64 ∧ 63 < 64 ∧ 8 ∈ [8, 16, 32, 64] ∧ 7 < 64 / 8 := by decide

theorem witness_PackIsConcatenation : 32 ∈ [8, 16, 32, 64] ∧ 1 < 64 / 32 := by decide

theorem witness_LaneViewRoundTrip : 64 ∈ [64, 32, 16, 8] ∧ 8 ∈ [64, 32, 16, 8] := by decide

theorem witness_LaneViewsNest : (32 ∈ [8, 16, 32] ∧ 0 < 32 / 32) ∧ (8 ∈ [8, 16, 32] ∧ 3 < 32 / 8) := by decide

theorem witness_LaneCarryIsTopSumBit : 8 ∈ [8, 16, 32, 64] ∧ laneCarry 0xFF#8 0x01#8 = true := by decide

theorem witness_AddAlgebra : 16 ∈ [8, 16, 32, 64] ∧ 3 < 64 / 16 := by decide

theorem witness_IncrementIsAddOfOnes : 8 ∈ [8, 16, 32, 64] ∧ 7 < 64 / 8 ∧ laneCarry (lane 8 0xFF 0) 1#8 = true := by decide

theorem witness_MultiplyLaws : 16 ∈ [8, 16, 32] ∧ 1 < 32 / 16 := by decide

/-- Two states that agree in byte lane 0 and differ in byte lane 1 (NoCarryCrossesLanes). -/
theorem witness_NoCarryCrossesLanes :
    (laneNum 8 (portsWith 0x01FF 0x0101 0#5).a 0 = laneNum 8 (portsWith 0xFFFF 0x0001 0#5).a 0 ∧
      laneNum 8 (portsWith 0x01FF 0x0101 0#5).b 0 = laneNum 8 (portsWith 0xFFFF 0x0001 0#5).b 0 ∧
      laneNum 8 (portsWith 0x01FF 0x0101 0#5).a 1 ≠ laneNum 8 (portsWith 0xFFFF 0x0001 0#5).a 1) ∧
    oneInEveryLane 8 = 0x0101010101010101 := by decide

/-- A lane that carries, a lane that just does not, and operands none of whose lanes carries (SaturationCeiling). -/
theorem witness_SaturationCeiling :
    laneCarry (lane 8 0xFF 0) (lane 8 0x01 0) = true ∧ laneCarry (lane 8 0xFE 0) (lane 8 0x01 0) = false ∧
    (∀ i < 64 / 8, laneNum 8 0x0F0F0F0F0F0F0F0F i + laneNum 8 0xF0F0F0F0F0F0F0F0 i < 2 ^ 8) := by decide

theorem witness_IncrementsAreIndependent :
    conformingIncrement.a = (portsWith 0 5 0x08#5).a ∧ conformingIncrement.b = (portsWith 5 0xFFFFFFFFFFFFFFFF 0x08#5).b ∧
    (portsWith 5 5 0x08#5).a = (portsWith 5 5 0x08#5).b := by decide

/-- Besides the operands of the witness above, a lane below its maximum (IncrementLaws, part (e)). -/
theorem witness_IncrementLaws : laneNum 8 0xFE 0 ≠ 2 ^ 8 - 1 ∧ Instr.pincsq ∈ [Instr.pincsb, .pincsq] := by decide

/-- Operands that agree in every odd byte lane and differ in an even one (EvenLanesAreIgnored). -/
theorem witness_EvenLanesAreIgnored :
    (∀ k < 64 / 8, k % 2 = 1 →
      laneNum 8 (portsWith 2 3 0x10#5).a k = laneNum 8 (portsWith 0 0 0x10#5).a k ∧
      laneNum 8 (portsWith 2 3 0x10#5).b k = laneNum 8 (portsWith 0 0 0x10#5).b k) ∧
    (portsWith 2 3 0x10#5).a ≠ (portsWith 0 0 0x10#5).a := by decide

theorem witness_QMultiplyDoesNotExist : (portsWith 2 3 0x13#5).op = 0x13#5 ∧ Instr.kind .pmulld = .mull := by decide

theorem witness_OneResultHostStep : (Instr.kind .paddsb).returnsTwo = false := by decide

theorem witness_TwoResultHostStep : (Instr.kind .pincsq).returnsTwo = true ∧ (0 : Nat) ≠ 1 := by decide

theorem witness_HostStepKeepsCanonicalVars :
    varsRise [(0, 2), (3, 1)] = true ∧
    varsOf (hostStep (.one 1 .paddb (.var 0) (.lit 1)) ⟨[(0, 2), (3, 1)], State.reset⟩) =
      some [(0, 2), (1, 3), (3, 1)] := by decide

/-- The hypothesis of HostFaultsOnlyOnIllegalCodes is met by the step of test_host_step_illegal_code_faults. -/
theorem witness_HostFaultsOnlyOnIllegalCodes :
    hostStep (.raw 3 0x13#5 (.lit 1) (.lit 2)) ⟨[], State.reset⟩ = .fault (.illegalOperation 0x13#5) := rfl

theorem witness_OmittedSecondRegister : (Instr.kind .pincb).returnsTwo = true := by decide

theorem witness_RenderingIsExact : render 0x2A = render 0x2A ∧ (15 : Nat) < 16 := ⟨rfl, by decide⟩

end Sys2Proof.Tests
end

section
/-!
PROOFS. The statements of 10_state.md: an invocation as a function of its inputs, the shape of the result ports, the outputs
at every moment, and the two directions of the lane view.
-/

namespace Sys2Proof.Machine

/-! ### The codes: each one names an operation or is illegal (30_encoding.md R56) -/

theorem decode_encode (i : Instr) : decode (encode i) = .ok i := by
  cases i <;> rfl

theorem illegal_or_encode : ∀ op : OpCode, 0x13 ≤ op.toNat ∨ ∃ i ∈ Instr.all, op = encode i := by decide

theorem toOption_decode_illegal : ∀ op : OpCode, 0x13 ≤ op.toNat → (decode op).toOption = none := by decide

/-! ### The step settles the output ports (30_encoding.md R61) -/

theorem settle_of_illegal {s : State} (h : 0x13 ≤ s.op.toNat) : s.settle = s.raiseIllegal := by
  rw [State.settle, calculate_illegal _ _ _ h, State.raiseIllegal]

/-- Each operation's own rule drives what `calc` says for its code. -/
theorem exec_eq_settle {s : State} {i : Instr} (h : s.op = encode i) : exec i s = .next s.settle := by
  rw [State.settle, h, calculate_encode]
  cases i <;> rfl

theorem step_eq_settle (s : State) : step s = .next s.settle := by
  obtain hill | ⟨i, -, hop⟩ := illegal_or_encode s.op
  · obtain ⟨i, hdec, -⟩ | ⟨e, -, hstep⟩ := step_cases s
    · simpa [hdec, Except.toOption] using toOption_decode_illegal s.op hill
    · rw [hstep, settle_of_illegal hill]
  · rw [← exec_eq_settle hop, step, hop, decode_encode]

/-- What settling leaves does not depend on what stood on the output ports. -/
theorem settle_eq_of_sameInputs {s s' : State} (h : SameInputs s s') : s.settle = s'.settle := by
  obtain ⟨ha, hb, hop⟩ := h
  exact State.ext_ports ha hb hop (by simp [ha, hb, hop])

theorem outputsFollow_iff_settle_eq (s : State) : OutputsFollow s ↔ s.settle = s :=
  ⟨fun h => State.ext_ports rfl rfl rfl h.symm, fun h => by rw [OutputsFollow, ← State.settle_outputs, h]⟩

/-! ### Settled ports conform to the dispatch rule -/

theorem portsConform_settle_of_illegal {s : State} (h : 0x13 ≤ s.op.toNat) : PortsConform s.settle := by
  have hkind : 4 ≤ kindField s.op := by unfold kindField; omega
  rw [settle_of_illegal h]
  refine ⟨fun _ => ⟨rfl, rfl, rfl, rfl⟩, ?_, ?_, ?_, ?_, ?_, ?_⟩ <;>
    simp only [State.raiseIllegal_op] <;> omega

theorem portsConform_settle_of_encode {s : State} {i : Instr} (h : s.op = encode i) : PortsConform s.settle := by
  have hW : 0 < i.width.bits := (isLaneWidth_bits i.width).pos
  have hlegal := toNat_encode_lt i
  have hnot : ¬ 19 ≤ (encode i).toNat := by omega
  simp only [PortsConform, State.settle_a, State.settle_b, State.settle_op, State.settle_y0, State.settle_y1,
    State.settle_two, State.settle_illegal, h, kindField_encode, widthField_encode, calculate_encode]
  cases i.kind with
  | add =>
    simpa [Kind.code, hnot, laneCount] using fun j hj => laneNum_wadd hW s.a s.b hj
  | adds =>
    simpa [Kind.code, hnot, laneCount] using fun j hj => laneNum_sadd hW s.a s.b hj
  | inc =>
    simpa [Kind.code, hnot, laneCount] using fun j hj => And.intro (laneNum_winc hW s.a hj) (laneNum_winc hW s.b hj)
  | incs =>
    simpa [Kind.code, hnot, laneCount] using fun j hj => And.intro (laneNum_sinc hW s.a hj) (laneNum_sinc hW s.b hj)
  | mull =>
    have hpairs : 64 / i.width.bits / 2 = laneCount (2 * i.width.bits) := by
      rw [Nat.div_div_eq_div_mul, Nat.mul_comm, laneCount]
    simpa [Kind.code, hnot, hlegal, hpairs] using fun j hj => laneNum_mull hW s.a s.b hj

theorem portsConform_settle (s : State) : PortsConform s.settle := by
  obtain hill | ⟨i, -, hop⟩ := illegal_or_encode s.op
  · exact portsConform_settle_of_illegal hill
  · exact portsConform_settle_of_encode hop

theorem portsConform_of_outputsFollow {s : State} (h : OutputsFollow s) : PortsConform s :=
  (outputsFollow_iff_settle_eq s).1 h ▸ portsConform_settle s

theorem outputsFollow_of_portMoment {s : State} (h : PortMoment s) : OutputsFollow s := by
  induction h with
  | first => unfold OutputsFollow; decide
  | driven s a b op _ _ => exact State.driveInputs_outputs s a b op
  | stepped s t _ hstep _ =>
    rw [step_eq_settle, Host.Outcome.next.injEq] at hstep
    exact hstep ▸ State.settle_outputs s

/-! ### What conforming ports say of ILLEGAL, TWO and Y1 (10_state.md R25 to R27) -/

theorem PortsConform.illegal_iff {s : State} (h : PortsConform s) : s.illegal = true ↔ 0x13 ≤ s.op.toNat := by
  obtain ⟨hill, hlegal, -⟩ := h
  refine ⟨fun htrue => ?_, fun hge => (hill hge).2.2.2⟩
  by_contra hlt
  simp [hlegal (by omega)] at htrue

/-- On an increment code `TWO` is 1; on any other, legal or not, `TWO` and `Y1` are 0. -/
theorem PortsConform.two_y1 {s : State} (h : PortsConform s) :
    (kindField s.op = 2 ∨ kindField s.op = 3) ∧ s.two = true ∨
    ¬ (kindField s.op = 2 ∨ kindField s.op = 3) ∧ s.two = false ∧ s.y1 = 0 := by
  obtain ⟨hill, -, hadd, hadds, hinc, hincs, hmull⟩ := h
  by_cases hge : 19 ≤ s.op.toNat
  · obtain ⟨-, hy1, htwo, -⟩ := hill hge
    exact .inr ⟨by unfold kindField; omega, htwo, hy1⟩
  have hkind : kindField s.op < 5 := by unfold kindField; omega
  interval_cases hk : kindField s.op
  · obtain ⟨htwo, hy1, -⟩ := hadd rfl
    exact .inr ⟨by decide, htwo, hy1⟩
  · obtain ⟨htwo, hy1, -⟩ := hadds rfl
    exact .inr ⟨by decide, htwo, hy1⟩
  · exact .inl ⟨by decide, (hinc rfl).1⟩
  · exact .inl ⟨by decide, (hincs rfl).1⟩
  · obtain ⟨htwo, hy1, -⟩ := hmull rfl (by omega)
    exact .inr ⟨by decide, htwo, hy1⟩

theorem incrementKind_iff (op : OpCode) :
    (kindField op = 2 ∨ kindField op = 3) ↔ 0x08 ≤ op.toNat ∧ op.toNat ≤ 0x0F := by
  unfold kindField
  omega

theorem PortsConform.two_iff {s : State} (h : PortsConform s) :
    s.two = true ↔ 0x08 ≤ s.op.toNat ∧ s.op.toNat ≤ 0x0F := by
  rw [← incrementKind_iff]
  obtain ⟨hinc, htwo⟩ | ⟨hinc, htwo, -⟩ := h.two_y1
  · simp only [hinc, htwo]
  · simp only [hinc, htwo, Bool.false_eq_true]

theorem PortsConform.y1_of_not_two {s : State} (h : PortsConform s) (hnot : s.two = false) : s.y1 = 0 := by
  obtain ⟨-, htwo⟩ | ⟨-, -, hy1⟩ := h.two_y1
  · simp [hnot] at htwo
  · exact hy1

theorem PortsConform.y1_of_wrappingIncrement {s : State} (h : PortsConform s)
    (hlo : 0x08 ≤ s.op.toNat) (hhi : s.op.toNat ≤ 0x0B) :
    ∀ i < 64 / widthField s.op, laneNum (widthField s.op) s.y1 i =
      (laneNum (widthField s.op) s.b i + 1) % 2 ^ widthField s.op := by
  obtain ⟨-, -, -, -, hinc, -⟩ := h
  have hkind : kindField s.op = 2 := by unfold kindField; omega
  exact fun i hi => ((hinc hkind).2 i hi).2

theorem PortsConform.y1_of_saturatingIncrement {s : State} (h : PortsConform s)
    (hlo : 0x0C ≤ s.op.toNat) (hhi : s.op.toNat ≤ 0x0F) :
    ∀ i < 64 / widthField s.op, laneNum (widthField s.op) s.y1 i =
      min (laneNum (widthField s.op) s.b i + 1) (2 ^ widthField s.op - 1) := by
  obtain ⟨-, -, -, -, -, hincs, -⟩ := h
  have hkind : kindField s.op = 3 := by unfold kindField; omega
  exact fun i hi => ((hincs hkind).2 i hi).2

/-! ### Composition as a number and as a fold (10_state.md R30, R31) -/

theorem toNat_packLanes_lt {W : Nat} (hW : 0 < W) (f : Nat → BitVec W) (n : Nat) :
    (packLanes W n f).toNat < 2 ^ (W * n) := by
  refine Nat.lt_pow_two_of_testBit _ fun k hk => ?_
  rw [BitVec.testBit_toNat, getLsbD_packLanes hW, decide_eq_false (Nat.not_lt.2 hk)]
  simp

/-- A lane that lies within the 64 bits is shifted to its place with no bit lost. -/
theorem toNat_shiftedLane {W n : Nat} (x : BitVec W) (hn : W * (n + 1) ≤ 64) :
    (x.setWidth 64 <<< (W * n)).toNat = 2 ^ (W * n) * x.toNat := by
  rw [Nat.mul_succ] at hn
  have hfit : 2 ^ (W * n) * x.toNat < 2 ^ 64 :=
    calc 2 ^ (W * n) * x.toNat < 2 ^ (W * n) * 2 ^ W := Nat.mul_lt_mul_of_pos_left x.isLt (Nat.two_pow_pos _)
      _ = 2 ^ (W * n + W) := (Nat.pow_add _ _ _).symm
      _ ≤ 2 ^ 64 := Nat.pow_le_pow_right (by decide) hn
  have hx : x.toNat < 2 ^ 64 := lt_of_le_of_lt (Nat.le_mul_of_pos_left _ (Nat.two_pow_pos _)) hfit
  rw [BitVec.toNat_shiftLeft, BitVec.toNat_setWidth, Nat.mod_eq_of_lt hx, Nat.shiftLeft_eq, Nat.mul_comm,
    Nat.mod_eq_of_lt hfit]

/-- The lanes do not overlap, so or-ing them together adds them. -/
theorem toNat_packLanes {W : Nat} (hW : 0 < W) (f : Nat → BitVec W) {n : Nat} (hn : W * n ≤ 64) :
    (packLanes W n f).toNat = ∑ i ∈ Finset.range n, (f i).toNat * 2 ^ (W * i) := by
  induction n with
  | zero => simp [packLanes]
  | succ n ih =>
    have hprev : W * n ≤ 64 := le_trans (Nat.mul_le_mul_left W n.le_succ) hn
    rw [packLanes, BitVec.toNat_or, toNat_shiftedLane (f n) hn, Nat.or_comm,
      ← Nat.two_pow_add_eq_or_of_lt (toNat_packLanes_lt hW f n), ih hprev, Finset.sum_range_succ]
    ring

theorem packLanes_eq_foldl (W : Nat) (f : Nat → BitVec W) (n : Nat) :
    packLanes W n f = (List.range n).foldl (fun acc i => acc ||| ((f i).setWidth 64 <<< (W * i))) 0 := by
  induction n with
  | zero => rfl
  | succ n ih => rw [packLanes, ih, List.range_succ, List.foldl_append, List.foldl_cons, List.foldl_nil]

theorem pack_lane {W : Nat} (hW : IsLaneWidth W) (x : Word) : pack W (lane W x) = x :=
  eq_of_lanes hW fun _ hi => lane_pack hW.pos _ hi

/-- The one lane of width 64 is the whole value. -/
theorem lane_64 (x : Word) : lane 64 x 0 = x :=
  BitVec.extractLsb'_eq_self

/-! ### The obligations -/

/-- Settles O14: a step settles the outputs, and that forgets what stood on them. -/
theorem stepDependsOnInputsOnly : Obligations.StepDependsOnInputsOnly := fun s s' h =>
  ⟨s.settle, step_eq_settle s, settle_eq_of_sameInputs h ▸ step_eq_settle s'⟩

/-- Settles O19: the settled ports conform to the dispatch rule, which says what stands on `ILLEGAL`, `TWO` and `Y1`. -/
theorem resultShapePorts : Obligations.ResultShapePorts := fun s =>
  have h := portsConform_settle s
  ⟨s.settle, step_eq_settle s, h.illegal_iff, h.two_iff, h.y1_of_not_two,
    h.y1_of_wrappingIncrement, h.y1_of_saturatingIncrement⟩

/-- Settles O27, by induction on the number of lanes composed. -/
theorem packIsConcatenation : Obligations.PackIsConcatenation := fun W (hW : IsLaneWidth W) f =>
  ⟨toNat_packLanes hW.pos f hW.mul_laneCount.le, packLanes_eq_foldl W f _, fun _ hi => lane_pack hW.pos f hi⟩

/-- Settles O28: the composed value has the lanes it was composed of, and lanes determine a value. -/
theorem laneViewRoundTrip : Obligations.LaneViewRoundTrip := by
  have hwidths : [64, 32, 16, 8] ⊆ [8, 16, 32, 64] := by decide
  exact ⟨fun W hW x => pack_lane (hwidths hW) x, lane_64⟩

/-- Settles O47: by induction on the moments the outputs follow the inputs, and outputs that follow conform. -/
theorem outputsFollowAtEveryMoment : Obligations.OutputsFollowAtEveryMoment := fun _ h =>
  have hfollow := outputsFollow_of_portMoment h
  ⟨hfollow, portsConform_of_outputsFollow hfollow⟩

end Sys2Proof.Machine
end

section
/-!
PROOFS. The statements of 30_encoding.md: what the two fields of a code select, the decode by them, the step as `calc`, and
the tagged result.
-/

namespace Sys2Proof.Machine

/-! ### The two fields, as numbers and as bits (30_encoding.md R50 to R52) -/

theorem toNat_kindBits (op : OpCode) : (op.extractLsb' 2 3).toNat = op.toNat / 4 := by
  rw [BitVec.extractLsb'_toNat, Nat.shiftRight_eq_div_pow]
  omega

theorem toNat_widthBits (op : OpCode) : (op.extractLsb' 0 2).toNat = op.toNat % 4 := by
  rw [BitVec.extractLsb'_toNat, Nat.shiftRight_zero]

theorem kindBits_encode (i : Instr) : (encode i).extractLsb' 2 3 = i.kind.code :=
  BitVec.extractLsb'_append_eq_left

theorem widthBits_encode (i : Instr) : (encode i).extractLsb' 0 2 = i.width.code :=
  BitVec.extractLsb'_append_eq_right

/-! ### What the fields select -/

theorem kindOfCode_code (k : Kind) : Kind.ofCode k.code = some k := by
  cases k <;> rfl

theorem widthOfCode_code (wd : Width) : Width.ofCode wd.code = wd := by
  cases wd <;> rfl

theorem kindOfCode_kindBits (op : OpCode) :
    Kind.ofCode (op.extractLsb' 2 3) =
      (match op.toNat / 4 with
        | 0 => some .add | 1 => some .adds | 2 => some .inc | 3 => some .incs | 4 => some .mull | _ => none) := by
  rw [← toNat_kindBits]
  rfl

theorem widthOfCode_widthBits (op : OpCode) :
    Width.ofCode (op.extractLsb' 0 2) = (match op.toNat % 4 with | 0 => .b | 1 => .w | 2 => .d | _ => .q) := by
  rw [← toNat_widthBits]
  rfl

/-- A width's number of bits, by the value of the field that selects it. -/
theorem bits_widthOfCode : ∀ w : BitVec 2, (Width.ofCode w).bits = 8 * 2 ^ w.toNat := by decide

theorem bits_widthBits (op : OpCode) : (Width.ofCode (op.extractLsb' 0 2)).bits = widthField op := by
  rw [bits_widthOfCode, toNat_widthBits, widthField]

theorem widthField_eq_match (op : OpCode) :
    widthField op = (match op.toNat % 4 with | 0 => 8 | 1 => 16 | 2 => 32 | _ => 64) := by
  have hlt : op.toNat % 4 < 4 := Nat.mod_lt _ (by decide)
  unfold widthField
  interval_cases op.toNat % 4 <;> rfl

/-- The multiply goes with every value of `WIDTH` but 3 (42_multiply.md R126). -/
theorem kindWidthOk_mull : ∀ w : BitVec 2, kindWidthOk .mull (Width.ofCode w) = true ↔ w.toNat ≠ 3 := by decide

/-! ### The opcode map and the decode by fields (30_encoding.md R60) -/

theorem decodeFields_eq_decode (op : OpCode) :
    decodeFields op = (decode op).toOption.map fun i => (i.kind, i.width) := by
  obtain hill | ⟨i, -, rfl⟩ := illegal_or_encode op
  · rw [decodeFields_illegal op hill, toOption_decode_illegal op hill, Option.map_none]
  · rw [decodeFields_encode, decode_encode, Except.toOption, Option.map_some]

/-- The decode by fields, its width in bits: each kind below 4 goes with every width, kind 4 with all but `WIDTH` 3. -/
theorem decodeFields_bits (op : OpCode) :
    (decodeFields op).map (fun p => (p.1, p.2.bits)) =
      (match op.toNat / 4 with
        | 0 => some (.add, widthField op)
        | 1 => some (.adds, widthField op)
        | 2 => some (.inc, widthField op)
        | 3 => some (.incs, widthField op)
        | 4 => if op.toNat % 4 = 3 then none else some (.mull, widthField op)
        | _ => none) := by
  have hmull := kindWidthOk_mull (op.extractLsb' 0 2)
  rw [toNat_widthBits] at hmull
  rw [decodeFields, kindOfCode_kindBits, ← bits_widthBits]
  match op.toNat / 4 with
  | 0 | 1 | 2 | 3 => rfl
  | 4 => by_cases hw : op.toNat % 4 = 3 <;> simp [hmull, hw]
  | _ + 5 => rfl

/-! ### The tagged result (30_encoding.md R62) -/

theorem result_of_not_two {t : State} (hill : t.illegal = false) (htwo : t.two = false) :
    t.outputs.result = some (.one t.y0) := by
  simp [State.outputs, Outputs.result, hill, htwo]

theorem result_of_two {t : State} (hill : t.illegal = false) (htwo : t.two = true) :
    t.outputs.result = some (.two t.y0 t.y1) := by
  simp [State.outputs, Outputs.result, hill, htwo]

theorem calculate_of_kindField_two (a b : Word) {op : OpCode} (h : kindField op = 2) :
    calculate a b op = ⟨winc (widthField op) a, winc (widthField op) b, true, false⟩ := by
  have hdec : decodeFields op = some (.inc, Width.ofCode (op.extractLsb' 0 2)) := by
    rw [decodeFields, kindOfCode_kindBits, ← kindField, h]
    rfl
  rw [calculate, hdec, ← bits_widthBits]

theorem calculate_of_kindField_three (a b : Word) {op : OpCode} (h : kindField op = 3) :
    calculate a b op = ⟨sinc (widthField op) a, sinc (widthField op) b, true, false⟩ := by
  have hdec : decodeFields op = some (.incs, Width.ofCode (op.extractLsb' 0 2)) := by
    rw [decodeFields, kindOfCode_kindBits, ← kindField, h]
    rfl
  rw [calculate, hdec, ← bits_widthBits]

theorem settle_wrappingIncrement {s : State} (hlo : 0x08 ≤ s.op.toNat) (hhi : s.op.toNat < 0x0C) :
    s.settle.y0 = winc (widthField s.op) s.a ∧ s.settle.y1 = winc (widthField s.op) s.b := by
  have hkind : kindField s.op = 2 := by unfold kindField; omega
  simp [calculate_of_kindField_two _ _ hkind]

theorem settle_saturatingIncrement {s : State} (hlo : 0x0C ≤ s.op.toNat) (hhi : s.op.toNat < 0x10) :
    s.settle.y0 = sinc (widthField s.op) s.a ∧ s.settle.y1 = sinc (widthField s.op) s.b := by
  have hkind : kindField s.op = 3 := by unfold kindField; omega
  simp [calculate_of_kindField_three _ _ hkind]

/-! ### The obligations -/

/-- Settles O9: every operation's own rule and the illegal outcome settle the outputs, which is what `calc` says of them. -/
theorem stepDrivesCalculate : Obligations.StepDrivesCalculate := fun s =>
  ⟨s.settle, step_eq_settle s, ⟨s.settle_a, s.settle_b, s.settle_op⟩, s.settle_outputs⟩

/-- Settles O20: settled ports conform to the dispatch rule, which says what `TWO` and `ILLEGAL` are, and these two are the
tag; the registers of an increment are `calc`'s. -/
theorem taggedResultFollowsTwo : Obligations.TaggedResultFollowsTwo := by
  intro s hlegal
  obtain ⟨-, hlegalPorts, -⟩ := portsConform_settle s
  have hill : s.settle.illegal = false := hlegalPorts hlegal
  have htwo : s.settle.two = true ↔ 0x08 ≤ s.op.toNat ∧ s.op.toNat ≤ 0x0F := (portsConform_settle s).two_iff
  refine ⟨s.settle, step_eq_settle s, fun hout => ?_, fun hlo hhi => ?_,
    settle_wrappingIncrement, settle_saturatingIncrement⟩
  · have hone : s.settle.two = false := Bool.eq_false_iff.2 fun h => by have := htwo.1 h; omega
    exact ⟨hone, result_of_not_two hill hone⟩
  · have hpair : s.settle.two = true := htwo.2 ⟨hlo, Nat.le_of_lt_succ hhi⟩
    exact ⟨hpair, result_of_two hill hpair⟩

/-- Settles O2: the bits of a field are read as its number, and a code is made of its operation's two fields. -/
theorem codeFieldsSelectKindAndWidth : Obligations.CodeFieldsSelectKindAndWidth := by
  refine ⟨fun op => ⟨kindOfCode_kindBits op, widthOfCode_widthBits op, ?_⟩, fun i => ⟨?_, ?_⟩⟩
  · exact (bits_widthBits op).trans (widthField_eq_match op)
  · rw [kindBits_encode, kindOfCode_code]
  · rw [widthBits_encode, widthOfCode_code]

/-- Settles O3: the opcode map agrees with the decode by fields, which the numbers of the two fields decide. -/
theorem decodeIsDecodeByFields : Obligations.DecodeIsDecodeByFields := by
  refine fun op => ⟨decodeFields_eq_decode op, ?_⟩
  refine Eq.trans ?_ (decodeFields_bits op)
  rw [decodeFields_eq_decode, Option.map_map, Function.comp_def]

end Sys2Proof.Machine
end

section
/-!
PROOFS. The statements of 40_add.md: what an operation of the add family drives, in every lane of `Y0` and on every other port.
-/

namespace Sys2Proof.Machine

/-! ### The add family by its kind and width (40_add.md R80, R82) -/

theorem exec_of_kind_add {i : Instr} (h : i.kind = .add) (s : State) :
    exec i s = .next (s.driveOne (wadd i.width.bits s.a s.b)) := by
  cases i
  case paddb | paddw | paddd | paddq => rfl
  all_goals cases h

theorem exec_of_kind_adds {i : Instr} (h : i.kind = .adds) (s : State) :
    exec i s = .next (s.driveOne (sadd i.width.bits s.a s.b)) := by
  cases i
  case paddsb | paddsw | paddsd | paddsq => rfl
  all_goals cases h

theorem oneResult_driveOne (s : State) (y : Word) : OneResult s (s.driveOne y) :=
  ⟨⟨s.driveOne_a y, s.driveOne_b y, s.driveOne_op y⟩, s.driveOne_y1 y, s.driveOne_two y, s.driveOne_illegal y⟩

/-- The sum of two lanes clamped at `2^W - 1` is `2^W - 1` where the lane carries and the exact sum elsewhere; a sum of
exactly `2^W - 1` does not carry (40_add.md R82). -/
theorem min_laneSum_eq_ite_laneCarry (W : Nat) (a b : Word) (i : Nat) :
    min (laneNum W a i + laneNum W b i) (2 ^ W - 1) =
      if laneCarry (lane W a i) (lane W b i) = true then 2 ^ W - 1 else laneNum W a i + laneNum W b i := by
  have hcarry := laneCarry_eq_true_iff (lane W a i) (lane W b i)
  rw [toNat_lane, toNat_lane] at hcarry
  split
  case isTrue h =>
    have hover := hcarry.1 h
    exact min_eq_right (by omega)
  case isFalse h =>
    have hfits : ¬ 2 ^ W ≤ laneNum W a i + laneNum W b i := fun hover => h (hcarry.2 hover)
    exact min_eq_left (by omega)

/-! ### Completion, result and frame of one operation -/

theorem exec_wrappingAdd_result {i : Instr} (hkind : i.kind = .add) (s : State) :
    ∃ t, exec i s = .next t ∧ OneResult s t ∧ ∀ j < laneCount i.width.bits,
      laneNum i.width.bits t.y0 j =
        (laneNum i.width.bits s.a j + laneNum i.width.bits s.b j) % 2 ^ i.width.bits :=
  ⟨_, exec_of_kind_add hkind s, oneResult_driveOne s _,
    fun _ hj => laneNum_wadd (isLaneWidth_bits i.width).pos s.a s.b hj⟩

theorem exec_saturatingAdd_result {i : Instr} (hkind : i.kind = .adds) (s : State) :
    ∃ t, exec i s = .next t ∧ OneResult s t ∧ ∀ j < laneCount i.width.bits,
      laneNum i.width.bits t.y0 j =
        min (laneNum i.width.bits s.a j + laneNum i.width.bits s.b j) (2 ^ i.width.bits - 1) ∧
      laneNum i.width.bits t.y0 j =
        (if laneCarry (lane i.width.bits s.a j) (lane i.width.bits s.b j) = true then 2 ^ i.width.bits - 1
          else laneNum i.width.bits s.a j + laneNum i.width.bits s.b j) := by
  refine ⟨_, exec_of_kind_adds hkind s, oneResult_driveOne s _, fun j hj => ?_⟩
  have hclamp := laneNum_sadd (isLaneWidth_bits i.width).pos s.a s.b hj
  exact ⟨hclamp, hclamp.trans (min_laneSum_eq_ite_laneCarry _ _ _ _)⟩

/-! ### The obligations -/

/-- Settles O21: each of the four codes is its operation's, and every operation of kind `PADD` has the result. -/
theorem packedWrappingAddResult : Obligations.PackedWrappingAddResult := by
  intro p hp
  simp only [List.mem_cons, List.not_mem_nil, or_false] at hp
  rcases hp with rfl | rfl | rfl | rfl
  · exact ⟨decode_encode .paddb, exec_wrappingAdd_result rfl⟩
  · exact ⟨decode_encode .paddw, exec_wrappingAdd_result rfl⟩
  · exact ⟨decode_encode .paddd, exec_wrappingAdd_result rfl⟩
  · exact ⟨decode_encode .paddq, exec_wrappingAdd_result rfl⟩

/-- Settles O22: each of the four codes is its operation's, and every operation of kind `PADDS` has the result; on the
operands of R87 and R90 the wrapping sum of every lane is 0. -/
theorem packedSaturatingAddResult : Obligations.PackedSaturatingAddResult := by
  refine ⟨fun p hp => ?_, fun s ha hb => ⟨_, exec_of_kind_add rfl s, ?_⟩,
    fun s ha hb => ⟨_, exec_of_kind_add rfl s, ?_⟩⟩
  · simp only [List.mem_cons, List.not_mem_nil, or_false] at hp
    rcases hp with rfl | rfl | rfl | rfl
    · exact ⟨decode_encode .paddsb, exec_saturatingAdd_result rfl⟩
    · exact ⟨decode_encode .paddsw, exec_saturatingAdd_result rfl⟩
    · exact ⟨decode_encode .paddsd, exec_saturatingAdd_result rfl⟩
    · exact ⟨decode_encode .paddsq, exec_saturatingAdd_result rfl⟩
  · rw [State.driveOne_y0, ha, hb]
    decide
  · rw [State.driveOne_y0, ha, hb]
    decide

end Sys2Proof.Machine
end

section
/-!
PROOFS. The statements of 41_increment.md on the operations: what an operation of the increment family drives on `Y0` and on
`Y1`, in every lane, and that each of the two results is a function of its own operand.
-/

namespace Sys2Proof.Machine

/-! ### The increment family by its kind and width (41_increment.md R100 to R102) -/

theorem exec_of_kind_inc {i : Instr} (h : i.kind = .inc) (s : State) :
    exec i s = .next (s.driveTwo (winc i.width.bits s.a) (winc i.width.bits s.b)) := by
  cases i
  case pincb | pincw | pincd | pincq => rfl
  all_goals cases h

theorem exec_of_kind_incs {i : Instr} (h : i.kind = .incs) (s : State) :
    exec i s = .next (s.driveTwo (sinc i.width.bits s.a) (sinc i.width.bits s.b)) := by
  cases i
  case pincsb | pincsw | pincsd | pincsq => rfl
  all_goals cases h

theorem twoResults_driveTwo (s : State) (ya yb : Word) : TwoResults s (s.driveTwo ya yb) :=
  ⟨⟨s.driveTwo_a ya yb, s.driveTwo_b ya yb, s.driveTwo_op ya yb⟩, s.driveTwo_two ya yb, s.driveTwo_illegal ya yb⟩

/-- A lane plus 1 passes `2^W - 1` only where the lane is at it already, so clamping there keeps that lane and increments
every other exactly (41_increment.md R101). -/
theorem min_laneSucc_eq_ite_max (W : Nat) (x : Word) (i : Nat) :
    min (laneNum W x i + 1) (2 ^ W - 1) =
      if laneNum W x i = 2 ^ W - 1 then 2 ^ W - 1 else laneNum W x i + 1 := by
  have hlt := laneNum_lt W x i
  split
  case isTrue hmax => exact min_eq_right (by omega)
  case isFalse hbelow => exact min_eq_left (by omega)

/-! ### Completion, results and frame of one operation -/

theorem exec_wrappingIncrement_result {i : Instr} (hkind : i.kind = .inc) (s : State) :
    ∃ t, exec i s = .next t ∧ TwoResults s t ∧ ∀ j < laneCount i.width.bits,
      laneNum i.width.bits t.y0 j = (laneNum i.width.bits s.a j + 1) % 2 ^ i.width.bits ∧
      laneNum i.width.bits t.y1 j = (laneNum i.width.bits s.b j + 1) % 2 ^ i.width.bits := by
  have hW := (isLaneWidth_bits i.width).pos
  exact ⟨_, exec_of_kind_inc hkind s, twoResults_driveTwo s _ _,
    fun _ hj => ⟨laneNum_winc hW s.a hj, laneNum_winc hW s.b hj⟩⟩

theorem exec_saturatingIncrement_result {i : Instr} (hkind : i.kind = .incs) (s : State) :
    ∃ t, exec i s = .next t ∧ TwoResults s t ∧ ∀ j < laneCount i.width.bits,
      laneNum i.width.bits t.y0 j = min (laneNum i.width.bits s.a j + 1) (2 ^ i.width.bits - 1) ∧
      laneNum i.width.bits t.y0 j =
        (if laneNum i.width.bits s.a j = 2 ^ i.width.bits - 1 then 2 ^ i.width.bits - 1
          else laneNum i.width.bits s.a j + 1) ∧
      laneNum i.width.bits t.y1 j = min (laneNum i.width.bits s.b j + 1) (2 ^ i.width.bits - 1) ∧
      laneNum i.width.bits t.y1 j =
        (if laneNum i.width.bits s.b j = 2 ^ i.width.bits - 1 then 2 ^ i.width.bits - 1
          else laneNum i.width.bits s.b j + 1) := by
  refine ⟨_, exec_of_kind_incs hkind s, twoResults_driveTwo s _ _, fun j hj => ?_⟩
  have hclampA := laneNum_sinc (isLaneWidth_bits i.width).pos s.a hj
  have hclampB := laneNum_sinc (isLaneWidth_bits i.width).pos s.b hj
  exact ⟨hclampA, hclampA.trans (min_laneSucc_eq_ite_max _ _ _),
    hclampB, hclampB.trans (min_laneSucc_eq_ite_max _ _ _)⟩

/-- An operation that drives one function of `A` on `Y0` and the same function of `B` on `Y1` has independent results
(41_increment.md R102). -/
theorem results_independent_of_exec_driveTwo {i : Instr} {f : Word → Word}
    (h : ∀ s, exec i s = .next (s.driveTwo (f s.a) (f s.b))) (s s' : State) :
    ∃ t t', exec i s = .next t ∧ exec i s' = .next t' ∧
      TwoResults s t ∧ t.y0 = f s.a ∧ t.y1 = f s.b ∧
      (s.a = s'.a → t.y0 = t'.y0) ∧ (s.b = s'.b → t.y1 = t'.y1) ∧ (s.a = s.b → t.y0 = t.y1) :=
  ⟨_, _, h s, h s', twoResults_driveTwo s _ _, s.driveTwo_y0 _ _, s.driveTwo_y1 _ _,
    congrArg f, congrArg f, congrArg f⟩

/-! ### The obligations -/

/-- Settles O23: each of the four codes is its operation's, and every operation of kind `PINC` has the two results. -/
theorem packedWrappingIncrementResult : Obligations.PackedWrappingIncrementResult := by
  intro p hp
  simp only [List.mem_cons, List.not_mem_nil, or_false] at hp
  rcases hp with rfl | rfl | rfl | rfl
  · exact ⟨decode_encode .pincb, exec_wrappingIncrement_result rfl⟩
  · exact ⟨decode_encode .pincw, exec_wrappingIncrement_result rfl⟩
  · exact ⟨decode_encode .pincd, exec_wrappingIncrement_result rfl⟩
  · exact ⟨decode_encode .pincq, exec_wrappingIncrement_result rfl⟩

/-- Settles O24: each of the four codes is its operation's, and every operation of kind `PINCS` has the two results. -/
theorem packedSaturatingIncrementResult : Obligations.PackedSaturatingIncrementResult := by
  intro p hp
  simp only [List.mem_cons, List.not_mem_nil, or_false] at hp
  rcases hp with rfl | rfl | rfl | rfl
  · exact ⟨decode_encode .pincsb, exec_saturatingIncrement_result rfl⟩
  · exact ⟨decode_encode .pincsw, exec_saturatingIncrement_result rfl⟩
  · exact ⟨decode_encode .pincsd, exec_saturatingIncrement_result rfl⟩
  · exact ⟨decode_encode .pincsq, exec_saturatingIncrement_result rfl⟩

/-- Settles O35: each of the eight drives its kind's primitive at its width of `A` and, separately, of `B`. -/
theorem incrementsAreIndependent : Obligations.IncrementsAreIndependent := by
  intro p hp
  simp only [List.mem_cons, List.not_mem_nil, or_false] at hp
  rcases hp with rfl | rfl | rfl | rfl | hsaturating
  iterate 4 exact results_independent_of_exec_driveTwo (exec_of_kind_inc rfl)
  rcases hsaturating with rfl | rfl | rfl | rfl
  all_goals exact results_independent_of_exec_driveTwo (exec_of_kind_incs rfl)

end Sys2Proof.Machine
end

section
/-!
PROOFS. The statements of 42_multiply.md on the operations: what an operation of the multiply family drives, in every doubled
lane of `Y0` and on every other port, and that there is none at width `Q`.
-/

namespace Sys2Proof.Machine

/-! ### The multiply family by its kind and width (42_multiply.md R120) -/

theorem exec_of_kind_mull {i : Instr} (h : i.kind = .mull) (s : State) :
    exec i s = .next (s.driveOne (mull i.width.bits s.a s.b)) := by
  cases i
  case pmullb | pmullw | pmulld => rfl
  all_goals cases h

/-- A doubled lane takes the place of a pair of lanes, so there are half as many. -/
theorem laneCount_two_mul (W : Nat) : laneCount (2 * W) = 64 / W / 2 := by
  rw [Nat.div_div_eq_div_mul, Nat.mul_comm W 2, laneCount]

/-- The bound of 42_multiply.md R120: each factor is at most `2^W - 1`. -/
theorem laneNum_mul_laneNum_le (W : Nat) (a b : Word) (i k : Nat) :
    laneNum W a i * laneNum W b k ≤ (2 ^ W - 1) ^ 2 := by
  rw [Nat.pow_two]
  exact Nat.mul_le_mul (Nat.le_sub_one_of_lt (laneNum_lt W a i)) (Nat.le_sub_one_of_lt (laneNum_lt W b k))

/-- Completion, result and frame of one operation. The field of `2W` bits from bit `2W*j` is lane `j` of width `2W`. -/
theorem exec_multiply_result {i : Instr} (hkind : i.kind = .mull) (s : State) :
    ∃ t, exec i s = .next t ∧ OneResult s t ∧ ∀ j < 64 / i.width.bits / 2,
      field t.y0 (2 * i.width.bits * j) (2 * i.width.bits) =
        laneNum i.width.bits s.a (2 * j + 1) * laneNum i.width.bits s.b (2 * j + 1) ∧
      laneNum i.width.bits s.a (2 * j + 1) * laneNum i.width.bits s.b (2 * j + 1) ≤ (2 ^ i.width.bits - 1) ^ 2 := by
  refine ⟨_, exec_of_kind_mull hkind s, oneResult_driveOne s _, fun j hj => ⟨?_, laneNum_mul_laneNum_le _ _ _ _ _⟩⟩
  rw [← laneCount_two_mul] at hj
  exact laneNum_mull (isLaneWidth_bits i.width).pos s.a s.b hj

/-! ### Width `Q` (42_multiply.md R126) -/

theorem bits_lt_of_kind_mull {i : Instr} (h : i.kind = .mull) : i.width.bits < 64 := by
  cases i
  case pmullb | pmullw | pmulld => decide
  all_goals cases h

/-- The step on any illegal code (60_exceptions.md R141). -/
theorem step_of_illegal {s : State} (h : 0x13 ≤ s.op.toNat) :
    ∃ t, step s = .next t ∧ InputsHeld s t ∧ IllegalOutputs t :=
  ⟨s.raiseIllegal, settle_of_illegal h ▸ step_eq_settle s,
    ⟨s.raiseIllegal_a, s.raiseIllegal_b, s.raiseIllegal_op⟩,
    s.raiseIllegal_y0, s.raiseIllegal_y1, s.raiseIllegal_two, s.raiseIllegal_illegal⟩

theorem toNat_mull64 (a b : Word) : (mull64 a b).toNat = a.toNat * b.toNat % 2 ^ 64 :=
  BitVec.toNat_ofNat _ _

/-! ### The obligations -/

/-- Settles O25: each of the three codes is its operation's, and every operation of kind `PMULL` has the result. -/
theorem oddLaneMultiplyResult : Obligations.OddLaneMultiplyResult := by
  intro p hp
  simp only [List.mem_cons, List.not_mem_nil, or_false] at hp
  rcases hp with rfl | rfl | rfl
  · exact ⟨decode_encode .pmullb, exec_multiply_result rfl⟩
  · exact ⟨decode_encode .pmullw, exec_multiply_result rfl⟩
  · exact ⟨decode_encode .pmulld, exec_multiply_result rfl⟩

/-- Settles O39: the three multiplies are narrower, none of the 19 mnemonics is PMULLQ, and 0x13 is an illegal code. -/
theorem qMultiplyDoesNotExist : Obligations.QMultiplyDoesNotExist := by
  refine ⟨fun _ => bits_lt_of_kind_mull, by decide, fun s hop => step_of_illegal ?_, toNat_mull64⟩
  rw [hop]
  decide

end Sys2Proof.Machine
end

section
/-!
PROOFS. The statements of 60_exceptions.md: what every invocation gives, and the illegal-operation outcome, for the ALU and
for the host program that issued the code.
-/

namespace Sys2Proof.Machine

theorem inputsHeld_settle (s : State) : InputsHeld s s.settle :=
  ⟨s.settle_a, s.settle_b, s.settle_op⟩

/-! ### An invocation and a host-program step on an illegal code (60_exceptions.md R141) -/

/-- Driving the inputs leaves the outputs at `calc` of them already, so the step that follows changes no port. -/
theorem invoke_eq_driveInputs (s : State) (v : Invocation) :
    invoke s v = .next (s.driveInputs v.a v.b v.op) := by
  have hfollow : OutputsFollow (s.driveInputs v.a v.b v.op) := State.driveInputs_outputs s v.a v.b v.op
  rw [invoke, step_eq_settle, (outputsFollow_iff_settle_eq _).1 hfollow]

theorem result_calculate_of_illegal (a b : Word) {op : OpCode} (h : 0x13 ≤ op.toNat) :
    (calculate a b op).result = none := by
  rw [calculate_illegal a b op h]
  rfl

/-- In any form a step is written in, an illegal code faults before the destinations are looked at. -/
theorem hostStep_of_illegal {p : HostStep} (hcode : 0x13 ≤ p.code.toNat) (h : HostState) :
    hostStep p h = .fault (.illegalOperation p.code) := by
  obtain ⟨t, hinvoke, hcases⟩ := hostStep_cases p h
  rw [invoke_eq_driveInputs, Host.Outcome.next.injEq] at hinvoke
  subst hinvoke
  have hnone := result_calculate_of_illegal (p.invocation h.vars).a (p.invocation h.vars).b hcode
  obtain ⟨-, hfault⟩ | ⟨r, hsome, -⟩ | ⟨r, vars, hsome, -⟩ := hcases
  · exact hfault
  · cases hnone.symm.trans hsome
  · cases hnone.symm.trans hsome

/-! ### The obligations -/

/-- Settles O12: a step settles the outputs, which holds the inputs, and settled ports conform to the dispatch rule. -/
theorem stepMakesPortsConform : Obligations.StepMakesPortsConform := fun s =>
  ⟨s.settle, step_eq_settle s, inputsHeld_settle s, portsConform_settle s⟩

/-- Settles O18: the step on an illegal code raises the exception, and its host-program step is left with no result. -/
theorem illegalOperationOutcome : Obligations.IllegalOperationOutcome :=
  ⟨fun _ hill => step_of_illegal hill, fun h d op x y hill =>
    hostStep_of_illegal (p := .raw d op x y) hill h⟩

end Sys2Proof.Machine
end

section
/-!
PROOFS. The statement of 70_reset_and_hazards.md on the front end: a call of an increment operation, with the second register
given or omitted.
-/

namespace Sys2Proof.Machine

/-! ### What a front-end call drives and what the ALU answers (70_reset_and_hazards.md R166) -/

@[simp] theorem frontEndB_some (v : Word) : frontEndB (some v) = v := rfl
@[simp] theorem frontEndB_none : frontEndB none = Config.frontendOmittedB := rfl

theorem returnsTwo_iff (k : Kind) : k.returnsTwo = true ↔ k = .inc ∨ k = .incs := by
  cases k <;> decide

/-- An increment call is never refused for a missing second register: it becomes an invocation. -/
theorem frontEndCall_of_returnsTwo {i : Instr} (h : i.kind.returnsTwo = true) (s : State) (a : Word) (b : Option Word) :
    frontEndCall s i (some a) b = .next (s.driveInputs a (frontEndB b) (encode i)) := by
  rw [← invoke_eq_driveInputs s ⟨a, frontEndB b, encode i⟩]
  simp [frontEndCall, h]

/-- `calc` on the code of an increment operation: its kind's primitive of `A` and, separately, of `B` (41_increment.md R102). -/
theorem calculate_of_returnsTwo {i : Instr} (h : i.kind.returnsTwo = true) (a b : Word) :
    calculate a b (encode i) =
      ⟨if i.kind = .inc then winc i.width.bits a else sinc i.width.bits a,
        if i.kind = .inc then winc i.width.bits b else sinc i.width.bits b, true, false⟩ := by
  rw [calculate_encode]
  obtain hinc | hincs := (returnsTwo_iff i.kind).1 h
  · simp [hinc]
  · simp [hincs]

/-! ### The obligation -/

/-- Settles O44: the call drives `frontEndB b` on `B`, and the outputs are `calc` of an increment code on it. -/
theorem omittedSecondRegister : Obligations.OmittedSecondRegister := by
  intro s i a b h
  refine ⟨_, frontEndCall_of_returnsTwo h s a b, ?_⟩
  simp only [State.driveInputs_b, State.driveInputs_y0, State.driveInputs_y1, State.driveInputs_two,
    State.driveInputs_illegal, calculate_of_returnsTwo h, true_and, and_true]
  cases b with
  | some v => exact frontEndB_some v
  | none => exact frontEndB_none

end Sys2Proof.Machine
end

section
/-!
PROOFS. The statements of 30_encoding.md on codes and words: decode and encode as inverses, the rejected codes, the mnemonics,
and which operation a step runs.
-/

namespace Sys2Proof.Machine

/-! ### Decode and encode are inverse (30_encoding.md R54 to R56) -/

theorem except_toOption_eq_some_iff {ε α : Type} (e : Except ε α) (a : α) : e.toOption = some a ↔ e = .ok a := by
  cases e <;> simp [Except.toOption]

theorem encode_eq_of_decode {op : OpCode} {i : Instr} (h : decode op = .ok i) : encode i = op := by
  obtain hill | ⟨j, -, rfl⟩ := illegal_or_encode op
  · have hnone := toOption_decode_illegal op hill
    simp [h, Except.toOption] at hnone
  · rw [decode_encode, Except.ok.injEq] at h
    rw [h]

theorem decode_eq_ok_iff (op : OpCode) (i : Instr) : decode op = .ok i ↔ op = encode i :=
  ⟨fun h => (encode_eq_of_decode h).symm, fun h => h ▸ decode_encode i⟩

/-- Every operation of `Instr` is well formed: none is a multiply at width `Q` (42_multiply.md R126). -/
theorem wellFormed_eq_true (i : Instr) : i.wellFormed = true := by
  cases i <;> rfl

/-- The code that reaches `OP` is the table word's low five bits (log entry 4). -/
theorem toNat_tableWordCode (w : Nat) : (tableWordCode w).toNat = w % 32 :=
  BitVec.toNat_ofNat w 5

theorem decodeTableWord_eq_some_iff (nbits w : Nat) (i : Instr) :
    decodeTableWord nbits w = some i ↔ tableWordCode w = encode i := by
  rw [decodeTableWord, except_toOption_eq_some_iff, decode_eq_ok_iff]

/-! ### The rejected codes (30_encoding.md R55) -/

theorem decode_error_iff (op : OpCode) : (∃ e, decode op = .error e) ↔ 0x13 ≤ op.toNat := by
  constructor
  · rintro ⟨e, he⟩
    obtain hill | ⟨i, -, rfl⟩ := illegal_or_encode op
    · exact hill
    · rw [decode_encode] at he
      cases he
  · intro hill
    cases hdec : decode op with
    | error e => exact ⟨e, rfl⟩
    | ok i =>
      have hlt := toNat_encode_lt i
      rw [encode_eq_of_decode hdec] at hlt
      omega

theorem decode_unassignedKind : ∀ op : OpCode, 0x14 ≤ op.toNat → decode op = .error .unassignedKind := by decide

/-! ### The mnemonics (30_encoding.md R57, R64) -/

theorem ofMnemonic_mnemonic (i : Instr) : Instr.ofMnemonic i.mnemonic = some i := by
  cases i <;> decide

theorem mnemonic_injective {i j : Instr} (h : i.mnemonic = j.mnemonic) : i = j := by
  have hfound := ofMnemonic_mnemonic i
  rw [h, ofMnemonic_mnemonic, Option.some.injEq] at hfound
  exact hfound.symm

/-! ### The operation a step runs (30_encoding.md R61) -/

theorem step_of_decode {s : State} {i : Instr} (h : decode s.op = .ok i) : step s = exec i s := by
  rw [step, h]

/-! ### The obligations -/

/-- Settles O1: a code decodes to an operation exactly if it is that operation's code, and a table word's code is its low
five bits. -/
theorem decodeEncodeAgree : Obligations.DecodeEncodeAgree := by
  refine ⟨fun i _ => decode_encode i, fun op i h => ⟨encode_eq_of_decode h, wellFormed_eq_true i⟩, fun nbits w i => ?_⟩
  rw [decodeTableWord_eq_some_iff, ← BitVec.toNat_inj, toNat_tableWordCode]

/-- Settles O4: every code that is not an operation's is at least 0x13, and the 13 of them are read off the opcode map. -/
theorem rejectedCodesAreThirteen : Obligations.RejectedCodesAreThirteen :=
  ⟨decode_error_iff, rfl, decode_unassignedKind⟩

/-- Settles O5: each written code is its operation's, which decodes to that operation. -/
theorem writtenCodesDecode : Obligations.WrittenCodesDecode :=
  ⟨decode_encode .paddw, decode_encode .paddsq, decode_encode .pincd, decode_encode .pincsb, decode_encode .pmulld⟩

/-- Settles O6: what is found under a mnemonic determines the operation; PMULLQ is none's, as O39 has it. -/
theorem mnemonicsNameOperations : Obligations.MnemonicsNameOperations := by
  obtain ⟨-, hpmullq, -⟩ := qMultiplyDoesNotExist
  exact ⟨ofMnemonic_mnemonic, fun _ _ => mnemonic_injective, hpmullq⟩

/-- Settles O7: what the code on `OP` decodes to is all that chooses the operation. -/
theorem stepRunsDecodedOperation : Obligations.StepRunsDecodedOperation := fun _ _ => step_of_decode

/-- Settles O8: the word's code is the operation's, and the driven ports hold `calc` of it already. -/
theorem drivenWordRunsNext : Obligations.DrivenWordRunsNext := by
  intro s nbits w i h
  have hcode := (decodeTableWord_eq_some_iff nbits w i).1 h
  have hdec : decode (s.withFetchWord nbits w).op = .ok i := (decode_eq_ok_iff _ i).2 hcode
  refine ⟨step_of_decode hdec, s.withFetchWord_a nbits w, s.withFetchWord_b nbits w, ?_⟩
  rw [State.withFetchWord_outputs, hcode]

end Sys2Proof.Machine
end

section
/-!
PROOFS. The statements of 10_state.md, 20_memory.md and 60_exceptions.md on steps and runs: the ports after reset and after a
step, what conforming ports determine, and sequences of invocations.
-/

namespace Sys2Proof.Machine

/-! ### A step that answers, and the outputs it leaves -/

theorem eq_settle_of_step {s t : State} (h : step s = .next t) : t = s.settle := by
  rw [step_eq_settle, Host.Outcome.next.injEq] at h
  exact h.symm

theorem outputsFollow_settle (s : State) : OutputsFollow s.settle := s.settle_outputs

theorem outputsFollow_driveInputs (s : State) (a b : Word) (op : OpCode) : OutputsFollow (s.driveInputs a b op) :=
  s.driveInputs_outputs a b op

theorem settle_of_outputsFollow {s : State} (h : OutputsFollow s) : s.settle = s :=
  (outputsFollow_iff_settle_eq s).1 h

theorem settle_settle (s : State) : s.settle.settle = s.settle :=
  settle_of_outputsFollow (outputsFollow_settle s)

/-! ### Conforming ports are `calc` of the inputs (10_state.md R20) -/

/-- The doubled lane of a multiply is a lane width again (42_multiply.md R120). -/
theorem isLaneWidth_two_mul {W : Nat} (h : W ∈ [8, 16, 32]) : IsLaneWidth (2 * W) := by
  simp only [List.mem_cons, List.not_mem_nil, or_false] at h
  rcases h with rfl | rfl | rfl <;> decide

theorem bits_mem_of_kind_mull {i : Instr} (h : i.kind = .mull) : i.width.bits ∈ [8, 16, 32] := by
  cases i
  case pmullb | pmullw | pmulld => decide
  all_goals cases h

theorem outputs_eq_of_ports {s : State} {y0 y1 : Word} {two illegal : Bool} (h0 : s.y0 = y0) (h1 : s.y1 = y1)
    (htwo : s.two = two) (hill : s.illegal = illegal) : s.outputs = ⟨y0, y1, two, illegal⟩ := by
  rw [State.outputs, h0, h1, htwo, hill]

/-- On an operation's code the rule fixes every lane of the results and every other output, so that nothing but what `calc`
says conforms. -/
theorem PortsConform.outputs_of_encode {s : State} (h : PortsConform s) {i : Instr} (hop : s.op = encode i) :
    s.outputs = calculate s.a s.b (encode i) := by
  have hlt := toNat_encode_lt i
  have hW := isLaneWidth_bits i.width
  simp only [PortsConform, hop, kindField_encode, widthField_encode] at h
  obtain ⟨-, hlegal, hadd, hadds, hinc, hincs, hmull⟩ := h
  have hill : s.illegal = false := hlegal hlt
  rw [calculate_encode]
  cases hkind : i.kind with
  | add =>
    obtain ⟨htwo, hy1, hlanes⟩ := hadd (by rw [hkind]; rfl)
    refine outputs_eq_of_ports (eq_of_laneNums hW fun j hj => ?_) hy1 htwo hill
    rw [hlanes j hj, laneNum_wadd hW.pos _ _ hj]
  | adds =>
    obtain ⟨htwo, hy1, hlanes⟩ := hadds (by rw [hkind]; rfl)
    refine outputs_eq_of_ports (eq_of_laneNums hW fun j hj => ?_) hy1 htwo hill
    rw [hlanes j hj, laneNum_sadd hW.pos _ _ hj]
  | inc =>
    obtain ⟨htwo, hlanes⟩ := hinc (by rw [hkind]; rfl)
    refine outputs_eq_of_ports (eq_of_laneNums hW fun j hj => ?_) (eq_of_laneNums hW fun j hj => ?_) htwo hill
    · rw [(hlanes j hj).1, laneNum_winc hW.pos _ hj]
    · rw [(hlanes j hj).2, laneNum_winc hW.pos _ hj]
  | incs =>
    obtain ⟨htwo, hlanes⟩ := hincs (by rw [hkind]; rfl)
    refine outputs_eq_of_ports (eq_of_laneNums hW fun j hj => ?_) (eq_of_laneNums hW fun j hj => ?_) htwo hill
    · rw [(hlanes j hj).1, laneNum_sinc hW.pos _ hj]
    · rw [(hlanes j hj).2, laneNum_sinc hW.pos _ hj]
  | mull =>
    obtain ⟨htwo, hy1, hlanes⟩ := hmull (by rw [hkind]; rfl) hlt
    refine outputs_eq_of_ports (eq_of_laneNums (isLaneWidth_two_mul (bits_mem_of_kind_mull hkind)) fun j hj => ?_) hy1 htwo hill
    rw [laneNum_mull hW.pos _ _ hj, hlanes j (laneCount_two_mul _ ▸ hj)]

theorem PortsConform.outputs_of_illegal {s : State} (h : PortsConform s) (hill : 0x13 ≤ s.op.toNat) :
    s.outputs = ⟨0, 0, false, true⟩ := by
  obtain ⟨hports, -⟩ := h
  obtain ⟨hy0, hy1, htwo, hillegal⟩ := hports hill
  exact outputs_eq_of_ports hy0 hy1 htwo hillegal

theorem outputsFollow_of_portsConform {s : State} (h : PortsConform s) : OutputsFollow s := by
  obtain hill | ⟨i, -, hop⟩ := illegal_or_encode s.op
  · rw [OutputsFollow, calculate_illegal _ _ _ hill, h.outputs_of_illegal hill]
  · rw [OutputsFollow, hop, h.outputs_of_encode hop]

/-! ### Runs and sequences of invocations (20_memory.md R44, R46) -/

theorem run_succ_eq_settle (k : Nat) (s : State) : Host.Core.run core (k + 1) s = .next s.settle := by
  induction k generalizing s with
  | zero => exact run_of_step_next 0 (step_eq_settle s)
  | succ k ih => rw [run_of_step_next (k + 1) (step_eq_settle s), ih, settle_settle]

theorem sampleAll_eq_map (s : State) (vs : List Invocation) :
    sampleAll s vs = vs.map fun v => calculate v.a v.b v.op := by
  induction vs generalizing s with
  | nil => rfl
  | cons v vs ih => simp only [sampleAll, invoke_eq_driveInputs, State.driveInputs_outputs, ih, List.map_cons]

/-! ### The obligations -/

/-- Settles O10: reset is the first moment, at which the outputs follow the inputs. -/
theorem resetPortsConform : Obligations.ResetPortsConform :=
  portsConform_of_outputsFollow (outputsFollow_of_portMoment .first)

/-- Settles O11: the step leaves settled ports, and these conform. -/
theorem stepKeepsPortsConforming : Obligations.StepKeepsPortsConforming := fun s _ _ hstep =>
  eq_settle_of_step hstep ▸ portsConform_settle s

/-- Settles O13: conforming ports are settled, and settling forgets what stood on the outputs. -/
theorem conformingPortsAreDetermined : Obligations.ConformingPortsAreDetermined := fun s t hs ht hsame =>
  calc s = s.settle := (settle_of_outputsFollow (outputsFollow_of_portsConform hs)).symm
    _ = t.settle := settle_eq_of_sameInputs hsame
    _ = t := settle_of_outputsFollow (outputsFollow_of_portsConform ht)

/-- Settles O15: the illegal step leaves its mark on outputs only, and settling from there or from before it is the same. -/
theorem illegalInvocationLeavesNoTrace : Obligations.IllegalInvocationLeavesNoTrace := by
  intro s t v hill hstep
  have hsame : SameInputs (s.setInputs v.a v.b v.op) (t.setInputs v.a v.b v.op) := ⟨rfl, rfl, rfl⟩
  obtain ⟨t', hstep', -, houtputs⟩ := step_of_illegal hill
  obtain rfl : t' = t := (eq_settle_of_step hstep').trans (eq_settle_of_step hstep).symm
  refine ⟨houtputs, t'.setInputs_outputs v.a v.b v.op, (t'.setInputs v.a v.b v.op).settle, step_eq_settle _, ?_,
    State.settle_outputs _, (portsConform_settle _).illegal_iff⟩
  rw [step_eq_settle, settle_eq_of_sameInputs hsame]

/-- Settles O16: by induction on the number of steps, each after the first from ports already settled. -/
theorem repeatedInvocationIsStable : Obligations.RepeatedInvocationIsStable := fun k s =>
  ⟨s.settle, run_succ_eq_settle k s, step_eq_settle s⟩

/-- Settles O17: by induction on the sequence every sample is `calc` of its own inputs, which no order changes. -/
theorem invocationOrderIsIrrelevant : Obligations.InvocationOrderIsIrrelevant := by
  refine ⟨sampleAll_eq_map, fun s s' vs vs' hperm => ?_⟩
  rw [sampleAll_eq_map, sampleAll_eq_map]
  exact hperm.map _

/-- Settles O46: reset is a moment, every drive and every step settles the outputs, and settled ports stay as they are. -/
theorem outputsFollowInputs : Obligations.OutputsFollowInputs := by
  refine ⟨outputsFollow_of_portMoment .first, fun s a b op => ?_, fun s _ w => ?_, fun s t hstep => ?_, fun s hfollow => ?_⟩
  · exact ⟨s.driveInputs_a a b op, s.driveInputs_b a b op, s.driveInputs_op a b op, outputsFollow_driveInputs s a b op⟩
  · exact outputsFollow_driveInputs s s.a s.b (tableWordCode w)
  · exact eq_settle_of_step hstep ▸ outputsFollow_settle s
  · rw [step_eq_settle, settle_of_outputsFollow hfollow]

end Sys2Proof.Machine
end

section
/-!
PROOFS. The statements of 10_state.md on lane views, and the laws of 40_add.md: the saturation detect, no carry across lanes,
the ceiling, and the algebra of both adds.
-/

namespace Sys2Proof.Machine

/-! ### Lanes as bits and as numbers (10_state.md R29, R32) -/

theorem getLsbD_lane_of_lt {W k : Nat} (x : Word) (i : Nat) (hk : k < W) :
    (lane W x i).getLsbD k = x.getLsbD (W * i + k) := by
  rw [getLsbD_lane, decide_eq_true hk, Bool.true_and]

theorem laneNum_two_mul (W : Nat) (x : Word) (j : Nat) :
    laneNum (2 * W) x j = 2 ^ W * laneNum W x (2 * j + 1) + laneNum W x (2 * j) := by
  have hlo : W * (2 * j) = 2 * W * j := by ring
  have hhi : W * (2 * j + 1) = 2 * W * j + W := by ring
  simp only [laneNum, field]
  rw [hhi, hlo, Nat.pow_add, ← Nat.div_div_eq_div_mul, Nat.two_mul W, Nat.pow_add, Nat.mod_mul, Nat.add_comm]

/-- Two lanes put together are a number in base `2^W` with those two digits. -/
theorem toNat_lane_append_lane (W : Nat) (x : Word) (i k : Nat) :
    (lane W x i ++ lane W x k).toNat = 2 ^ W * laneNum W x i + laneNum W x k := by
  rw [BitVec.toNat_append, toNat_lane, toNat_lane, Nat.shiftLeft_eq, Nat.mul_comm,
    Nat.two_pow_add_eq_or_of_lt (laneNum_lt W x k)]

theorem laneNum_zero (W i : Nat) : laneNum W 0 i = 0 := by
  simp [laneNum, field]

/-- A value of all ones holds the maximum in every lane that lies within it. -/
theorem laneNum_allOnes {W i : Nat} (hi : i < laneCount W) : laneNum W 0xFFFFFFFFFFFFFFFF i = 2 ^ W - 1 := by
  have hfit : W * (i + 1) ≤ 64 := le_trans (Nat.mul_le_mul_left W hi) (Nat.mul_div_le 64 W)
  have hlane : lane W (BitVec.allOnes 64) i = BitVec.allOnes W := by
    refine BitVec.eq_of_getLsbD_eq fun k hk => ?_
    rw [Nat.mul_succ] at hfit
    rw [getLsbD_lane_of_lt _ _ hk, BitVec.getLsbD_allOnes, BitVec.getLsbD_allOnes, decide_eq_true hk]
    exact decide_eq_true (by omega)
  rw [← BitVec.toNat_allOnes, ← hlane, toNat_lane]
  rfl

/-! ### The saturation detect (40_add.md R81) -/

/-- The lane carry is the library's unsigned overflow, the top bit of the sum with one bit more. -/
theorem laneCarry_eq_getLsbD {W : Nat} (x y : BitVec W) :
    laneCarry x y = (x.setWidth (W + 1) + y.setWidth (W + 1)).getLsbD W := by
  rw [show laneCarry x y = BitVec.uaddOverflow x y from rfl, BitVec.uaddOverflow_eq, BitVec.msb_eq_getLsbD_last,
    Nat.add_sub_cancel]

theorem laneCarry_lane_iff (W : Nat) (a b : Word) (i : Nat) :
    laneCarry (lane W a i) (lane W b i) = true ↔ 2 ^ W ≤ laneNum W a i + laneNum W b i := by
  rw [laneCarry_eq_true_iff, toNat_lane, toNat_lane]

/-! ### The result of an add, lane by lane (40_add.md R91, R92) -/

/-- A lane of the sum, wrapping or saturating, is a function of that lane of the operands alone. -/
theorem laneNum_exec_add_congr {i : Instr} (hkind : i.kind = .add ∨ i.kind = .adds) (s s' : State) {j : Nat}
    (hj : j < laneCount i.width.bits) (ha : laneNum i.width.bits s.a j = laneNum i.width.bits s'.a j)
    (hb : laneNum i.width.bits s.b j = laneNum i.width.bits s'.b j) :
    ∃ t t', exec i s = .next t ∧ exec i s' = .next t' ∧
      laneNum i.width.bits t.y0 j = laneNum i.width.bits t'.y0 j := by
  obtain hadd | hadds := hkind
  · obtain ⟨t, ht, -, hlane⟩ := exec_wrappingAdd_result hadd s
    obtain ⟨t', ht', -, hlane'⟩ := exec_wrappingAdd_result hadd s'
    exact ⟨t, t', ht, ht', by rw [hlane j hj, hlane' j hj, ha, hb]⟩
  · obtain ⟨t, ht, -, hlane⟩ := exec_saturatingAdd_result hadds s
    obtain ⟨t', ht', -, hlane'⟩ := exec_saturatingAdd_result hadds s'
    exact ⟨t, t', ht, ht', by rw [(hlane j hj).1, (hlane' j hj).1, ha, hb]⟩

theorem wadd_allOnes_oneInEveryLane {W : Nat} (hW : IsLaneWidth W) :
    wadd W 0xFFFFFFFFFFFFFFFF (oneInEveryLane W) = 0 := by
  refine eq_of_laneNums hW fun i hi => ?_
  rw [laneNum_wadd hW.pos _ _ hi, laneNum_allOnes hi, laneNum_oneInEveryLane hW.pos hi, laneNum_zero,
    Nat.sub_add_cancel (Nat.two_pow_pos W), Nat.mod_self]

/-- With every lane of `A` at its maximum and 1 in every lane of `B`, every lane wraps to 0 (40_add.md R91). -/
theorem exec_wrappingAdd_ones_to_max {i : Instr} (hkind : i.kind = .add) {s : State} (ha : s.a = 0xFFFFFFFFFFFFFFFF)
    (hb : s.b = oneInEveryLane i.width.bits) : ∃ t, exec i s = .next t ∧ t.y0 = 0 := by
  refine ⟨_, exec_of_kind_add hkind s, ?_⟩
  rw [State.driveOne_y0, ha, hb, wadd_allOnes_oneInEveryLane (isLaneWidth_bits i.width)]

theorem laneNum_wadd_of_not_carry {W : Nat} (hW : 0 < W) {a b : Word} {i : Nat} (hi : i < laneCount W)
    (h : laneNum W a i + laneNum W b i < 2 ^ W) : laneNum W (wadd W a b) i = laneNum W a i + laneNum W b i := by
  rw [laneNum_wadd hW a b hi, Nat.mod_eq_of_lt h]

theorem laneNum_sadd_of_not_carry {W : Nat} (hW : 0 < W) {a b : Word} {i : Nat} (hi : i < laneCount W)
    (h : laneNum W a i + laneNum W b i < 2 ^ W) : laneNum W (sadd W a b) i = laneNum W a i + laneNum W b i := by
  rw [laneNum_sadd hW a b hi]
  exact min_eq_left (by omega)

/-- Two lanes sum to less than `2 * 2^W`, so a lane that carries loses `2^W` once. -/
theorem laneNum_wadd_of_carry {W : Nat} (hW : 0 < W) {a b : Word} {i : Nat} (hi : i < laneCount W)
    (h : 2 ^ W ≤ laneNum W a i + laneNum W b i) :
    laneNum W (wadd W a b) i + 2 ^ W = laneNum W a i + laneNum W b i := by
  have ha := laneNum_lt W a i
  have hb := laneNum_lt W b i
  rw [laneNum_wadd hW a b hi, Nat.mod_eq_sub_mod h, Nat.mod_eq_of_lt (by omega)]
  omega

theorem laneNum_sadd_of_carry {W : Nat} (hW : 0 < W) {a b : Word} {i : Nat} (hi : i < laneCount W)
    (h : 2 ^ W ≤ laneNum W a i + laneNum W b i) : laneNum W (sadd W a b) i = 2 ^ W - 1 := by
  rw [laneNum_sadd hW a b hi]
  exact min_eq_right (by omega)

/-! ### The algebra of both adds (40_add.md R93) -/

theorem wadd_comm {W : Nat} (hW : IsLaneWidth W) (a b : Word) : wadd W a b = wadd W b a := by
  refine eq_of_laneNums hW fun i hi => ?_
  rw [laneNum_wadd hW.pos _ _ hi, laneNum_wadd hW.pos _ _ hi, Nat.add_comm]

theorem sadd_comm {W : Nat} (hW : IsLaneWidth W) (a b : Word) : sadd W a b = sadd W b a := by
  refine eq_of_laneNums hW fun i hi => ?_
  rw [laneNum_sadd hW.pos _ _ hi, laneNum_sadd hW.pos _ _ hi, Nat.add_comm]

theorem wadd_assoc {W : Nat} (hW : IsLaneWidth W) (a b c : Word) :
    wadd W (wadd W a b) c = wadd W a (wadd W b c) := by
  refine eq_of_laneNums hW fun i hi => ?_
  simp only [laneNum_wadd hW.pos _ _ hi, Nat.mod_add_mod, Nat.add_mod_mod, Nat.add_assoc]

/-- Clamping a sum after each of its terms or once at the end is the same: no term is negative. -/
theorem min_min_add (m n k : Nat) : min (min m k + n) k = min (m + n) k := by
  omega

theorem sadd_assoc {W : Nat} (hW : IsLaneWidth W) (a b c : Word) :
    sadd W (sadd W a b) c = sadd W a (sadd W b c) := by
  refine eq_of_laneNums hW fun i hi => ?_
  simp only [laneNum_sadd hW.pos _ _ hi, min_min_add]
  rw [Nat.add_comm (laneNum W a i) (min _ _), min_min_add]
  congr 1
  omega

theorem wadd_zero {W : Nat} (hW : IsLaneWidth W) (a : Word) : wadd W a 0 = a := by
  refine eq_of_laneNums hW fun i hi => ?_
  rw [laneNum_wadd hW.pos _ _ hi, laneNum_zero, Nat.add_zero, Nat.mod_eq_of_lt (laneNum_lt W a i)]

theorem sadd_zero {W : Nat} (hW : IsLaneWidth W) (a : Word) : sadd W a 0 = a := by
  refine eq_of_laneNums hW fun i hi => ?_
  rw [laneNum_sadd hW.pos _ _ hi, laneNum_zero, Nat.add_zero, min_eq_left (Nat.le_sub_one_of_lt (laneNum_lt W a i))]

theorem sadd_allOnes {W : Nat} (hW : IsLaneWidth W) (a : Word) :
    sadd W a 0xFFFFFFFFFFFFFFFF = 0xFFFFFFFFFFFFFFFF := by
  refine eq_of_laneNums hW fun i hi => ?_
  rw [laneNum_sadd hW.pos _ _ hi, laneNum_allOnes hi, min_eq_right (Nat.le_add_left _ _)]

theorem laneNum_foldl_sadd {W : Nat} (hW : 0 < W) (ops : List Word) (a : Word) {i : Nat} (hi : i < laneCount W) :
    laneNum W (ops.foldl (sadd W) a) i =
      min (laneNum W a i + (ops.map fun x => laneNum W x i).sum) (2 ^ W - 1) := by
  induction ops generalizing a with
  | nil => exact (min_eq_left (Nat.le_sub_one_of_lt (laneNum_lt W a i))).symm
  | cons b ops ih =>
    rw [List.foldl_cons, ih, laneNum_sadd hW a b hi, min_min_add, List.map_cons, List.sum_cons, Nat.add_assoc]

/-! ### The obligations -/

/-- Settles O26: a lane is the extracted field, as a number and bit by bit. -/
theorem laneIsBitField : Obligations.LaneIsBitField := fun W _ x i _ _ hk =>
  ⟨toNat_lane W x i, getLsbD_lane_of_lt x i hk⟩

/-- Settles O29: either side is the number with the odd and the even lane as its digits in base `2^W`. -/
theorem laneViewsNest : Obligations.LaneViewsNest := fun W _ x j _ => by
  rw [toNat_lane, laneNum_two_mul, toNat_lane_append_lane]

/-- Settles O30: the detect compares the sum with `2^W`, which the sum with one bit more shows in its top bit. -/
theorem laneCarryIsTopSumBit : Obligations.LaneCarryIsTopSumBit := fun _ _ x y =>
  ⟨laneCarry_eq_true_iff x y, laneCarry_eq_getLsbD x y⟩

/-- Settles O31: each operation's result lane is its kind's formula on that lane; maximum plus 1 wraps to 0 in every lane. -/
theorem noCarryCrossesLanes : Obligations.NoCarryCrossesLanes := by
  refine ⟨fun p hp s s' i hi ha hb => ?_, fun p hp s ha hb => ?_⟩
  · simp only [List.mem_cons, List.not_mem_nil, or_false] at hp
    rcases hp with rfl | rfl | rfl | hsaturating
    iterate 3 exact laneNum_exec_add_congr (.inl rfl) s s' hi ha hb
    rcases hsaturating with rfl | rfl | rfl
    all_goals exact laneNum_exec_add_congr (.inr rfl) s s' hi ha hb
  · simp only [List.mem_cons, List.not_mem_nil, or_false] at hp
    rcases hp with rfl | rfl | rfl
    all_goals exact exec_wrappingAdd_ones_to_max rfl ha hb

/-- Settles O32: lane by lane, where the sum reaches `2^W` and where it does not. -/
theorem saturationCeiling : Obligations.SaturationCeiling := by
  intro W (hW : IsLaneWidth W) a b
  refine ⟨fun i hi => ⟨Nat.le_sub_one_of_lt (laneNum_lt W _ i), fun hnot => ?_, fun hcarry => ?_⟩, fun hfit => ?_⟩
  · have hlt : laneNum W a i + laneNum W b i < 2 ^ W := by
      rw [← Nat.not_le, ← laneCarry_lane_iff, hnot]
      decide
    rw [laneNum_sadd_of_not_carry hW.pos hi hlt, laneNum_wadd_of_not_carry hW.pos hi hlt]
  · rw [laneCarry_lane_iff] at hcarry
    exact ⟨laneNum_wadd_of_carry hW.pos hi hcarry, laneNum_sadd_of_carry hW.pos hi hcarry⟩
  · refine eq_of_laneNums hW fun i hi => ?_
    rw [laneNum_sadd_of_not_carry hW.pos hi (hfit i hi), laneNum_wadd_of_not_carry hW.pos hi (hfit i hi)]

/-- Settles O33: each law holds in every lane; a chain by induction on its operands; the byte lane F0, 20, E0 by evaluation. -/
theorem addAlgebra : Obligations.AddAlgebra := by
  refine ⟨fun W (hW : IsLaneWidth W) a b c => ?_, by decide, by decide⟩
  exact ⟨wadd_comm hW a b, sadd_comm hW a b, wadd_assoc hW a b c, sadd_assoc hW a b c, wadd_zero hW a, sadd_zero hW a,
    sadd_allOnes hW a, fun ops _ hi => laneNum_foldl_sadd hW.pos ops a hi⟩

end Sys2Proof.Machine
end

section
/-!
PROOFS. The laws of 41_increment.md: the increment as an add of ones, the independence of the two results, and what repeating
an increment gives.
-/

namespace Sys2Proof.Machine

/-! ### The increment is the add of 1 in every lane (41_increment.md R100, R101) -/

theorem winc_eq_wadd {W : Nat} (hW : IsLaneWidth W) (a : Word) : winc W a = wadd W a (oneInEveryLane W) := by
  refine eq_of_laneNums hW fun i hi => ?_
  rw [laneNum_winc hW.pos a hi, laneNum_wadd hW.pos _ _ hi, laneNum_oneInEveryLane hW.pos hi]

theorem sinc_eq_sadd {W : Nat} (hW : IsLaneWidth W) (a : Word) : sinc W a = sadd W a (oneInEveryLane W) := by
  refine eq_of_laneNums hW fun i hi => ?_
  rw [laneNum_sinc hW.pos a hi, laneNum_sadd hW.pos _ _ hi, laneNum_oneInEveryLane hW.pos hi]

/-- Adding 1 to a lane carries exactly where the lane is at its maximum. -/
theorem laneCarry_one_iff {W : Nat} (hW : 0 < W) (a : Word) (i : Nat) :
    laneCarry (lane W a i) (1#W) = true ↔ laneNum W a i = 2 ^ W - 1 := by
  have hlt := laneNum_lt W a i
  rw [laneCarry_eq_true_iff, toNat_lane, BitVec.toNat_ofNat, Nat.mod_eq_of_lt (Nat.one_lt_two_pow hW.ne')]
  omega

/-! ### Both increments drive one function of each operand (41_increment.md R102) -/

theorem exec_of_returnsTwo {i : Instr} (h : i.kind.returnsTwo = true) :
    ∃ f : Word → Word, ∀ s, exec i s = .next (s.driveTwo (f s.a) (f s.b)) := by
  obtain hinc | hincs := (returnsTwo_iff i.kind).1 h
  · exact ⟨winc i.width.bits, exec_of_kind_inc hinc⟩
  · exact ⟨sinc i.width.bits, exec_of_kind_incs hincs⟩

theorem increment_results_independent {i : Instr} (h : i.kind.returnsTwo = true) (s s' : State) :
    ∃ t t', exec i s = .next t ∧ exec i s' = .next t' ∧
      (s.a = s'.a → t.y0 = t'.y0) ∧ (s.b = s'.b → t.y1 = t'.y1) := by
  obtain ⟨f, hf⟩ := exec_of_returnsTwo h
  obtain ⟨t, t', ht, ht', -, -, -, hy0, hy1, -⟩ := results_independent_of_exec_driveTwo hf s s'
  exact ⟨t, t', ht, ht', hy0, hy1⟩

/-! ### Repeating the wrapping increment (41_increment.md R111 (b), (c)) -/

theorem laneNum_iterate_winc {W : Nat} (hW : 0 < W) (n : Nat) (x : Word) {i : Nat} (hi : i < laneCount W) :
    laneNum W ((winc W)^[n] x) i = (laneNum W x i + n) % 2 ^ W := by
  induction n with
  | zero => exact (Nat.mod_eq_of_lt (laneNum_lt W x i)).symm
  | succ n ih => rw [Function.iterate_succ_apply', laneNum_winc hW _ hi, ih, Nat.mod_add_mod, Nat.add_assoc]

theorem iterate_winc_period {W : Nat} (hW : IsLaneWidth W) (x : Word) : (winc W)^[2 ^ W] x = x := by
  refine eq_of_laneNums hW fun i hi => ?_
  rw [laneNum_iterate_winc hW.pos _ x hi, Nat.add_mod_right, Nat.mod_eq_of_lt (laneNum_lt W x i)]

/-- One increment less than a period undoes an increment, from either side. -/
theorem winc_bijective {W : Nat} (hW : IsLaneWidth W) : Function.Bijective (winc W) := by
  have hperiod : (2 ^ W - 1).succ = 2 ^ W := Nat.sub_add_cancel (Nat.two_pow_pos W)
  refine Function.bijective_iff_has_inverse.2 ⟨(winc W)^[2 ^ W - 1], fun x => ?_, fun x => ?_⟩
  · rw [← Function.iterate_succ_apply, hperiod, iterate_winc_period hW]
  · rw [← Function.iterate_succ_apply' (winc W), hperiod, iterate_winc_period hW]

/-! ### Repeating the saturating increment (41_increment.md R111 (d), (e)) -/

theorem laneNum_iterate_sinc {W : Nat} (hW : 0 < W) (n : Nat) (x : Word) {i : Nat} (hi : i < laneCount W) :
    laneNum W ((sinc W)^[n] x) i = min (laneNum W x i + n) (2 ^ W - 1) := by
  induction n with
  | zero => exact (min_eq_left (Nat.le_sub_one_of_lt (laneNum_lt W x i))).symm
  | succ n ih => rw [Function.iterate_succ_apply', laneNum_sinc hW _ hi, ih, min_min_add, Nat.add_assoc]

theorem iterate_sinc_ceiling {W : Nat} (hW : IsLaneWidth W) (x : Word) :
    (sinc W)^[2 ^ W - 1] x = 0xFFFFFFFFFFFFFFFF := by
  refine eq_of_laneNums hW fun i hi => ?_
  rw [laneNum_iterate_sinc hW.pos _ x hi, laneNum_allOnes hi, min_eq_right (Nat.le_add_left _ _)]

theorem laneNum_sinc_eq_self_iff {W : Nat} (hW : 0 < W) (x : Word) {i : Nat} (hi : i < laneCount W) :
    laneNum W (sinc W x) i = laneNum W x i ↔ laneNum W x i = 2 ^ W - 1 := by
  have hlt := laneNum_lt W x i
  rw [laneNum_sinc hW x hi]
  omega

theorem sinc_eq_self_iff_lanes {W : Nat} (hW : IsLaneWidth W) (x : Word) :
    sinc W x = x ↔ ∀ i < laneCount W, laneNum W x i = 2 ^ W - 1 :=
  ⟨fun h _ hi => (laneNum_sinc_eq_self_iff hW.pos x hi).1 (by rw [h]),
    fun h => eq_of_laneNums hW fun i hi => (laneNum_sinc_eq_self_iff hW.pos x hi).2 (h i hi)⟩

theorem sinc_eq_self_iff_allOnes {W : Nat} (hW : IsLaneWidth W) (x : Word) :
    sinc W x = x ↔ x = 0xFFFFFFFFFFFFFFFF := by
  rw [sinc_eq_self_iff_lanes hW]
  refine ⟨fun h => eq_of_laneNums hW fun i hi => ?_, fun h i hi => ?_⟩
  · rw [h i hi, laneNum_allOnes hi]
  · rw [h, laneNum_allOnes hi]

/-- Below its maximum a lane plus 1 neither wraps nor clamps. -/
theorem laneNum_sinc_eq_winc {W : Nat} (hW : 0 < W) (x : Word) {i : Nat} (hi : i < laneCount W)
    (hbelow : laneNum W x i ≠ 2 ^ W - 1) : laneNum W (sinc W x) i = laneNum W (winc W x) i := by
  have hlt := laneNum_lt W x i
  rw [laneNum_sinc hW x hi, laneNum_winc hW x hi, min_eq_left (by omega), Nat.mod_eq_of_lt (by omega)]

/-! ### The obligations -/

/-- Settles O34: lane by lane, where 1 is what the second operand holds. -/
theorem incrementIsAddOfOnes : Obligations.IncrementIsAddOfOnes := fun _ (hW : IsLaneWidth _) a =>
  ⟨winc_eq_wadd hW a, sinc_eq_sadd hW a, fun i _ => laneCarry_one_iff hW.pos a i⟩

/-- Settles O36: `n` increments add `n` to every lane, modulo `2^W` or up to the ceiling. -/
theorem incrementLaws : Obligations.IncrementLaws := by
  refine ⟨fun i hi s s' => increment_results_independent ?_ s s', fun W (hW : IsLaneWidth W) => ?_⟩
  · revert i
    decide
  · exact ⟨winc_bijective hW, iterate_winc_period hW, sinc_eq_self_iff_lanes hW, sinc_eq_self_iff_allOnes hW,
      iterate_sinc_ceiling hW, fun x _ hi => laneNum_sinc_eq_winc hW.pos x hi⟩

end Sys2Proof.Machine
end

section
/-!
PROOFS. The laws of 42_multiply.md: the even lanes play no part, and the products with 0 and with 1 in every lane.
-/

namespace Sys2Proof.Machine

/-! ### The primitive, lane by lane (42_multiply.md R120, R122, R127) -/

/-- The widths a multiply has are lane widths (42_multiply.md R126). -/
theorem isLaneWidth_of_multiply {W : Nat} (h : W ∈ [8, 16, 32]) : IsLaneWidth W := by
  have hsubset : [8, 16, 32] ⊆ [8, 16, 32, 64] := by decide
  exact hsubset h

theorem laneCount_even : ∀ W ∈ [8, 16, 32], laneCount W % 2 = 0 := by decide

/-- The odd lane of a pair lies within the 64 bits. -/
theorem odd_lt_laneCount {W : Nat} (hW : W ∈ [8, 16, 32]) {j : Nat} (hj : j < laneCount (2 * W)) :
    2 * j + 1 < laneCount W := by
  have heven := laneCount_even W hW
  rw [laneCount_two_mul, ← laneCount] at hj
  omega

theorem mull_congr_odd {W : Nat} (hW : W ∈ [8, 16, 32]) {a b a' b' : Word}
    (hodd : ∀ k < laneCount W, k % 2 = 1 → laneNum W a k = laneNum W a' k ∧ laneNum W b k = laneNum W b' k) :
    mull W a b = mull W a' b' := by
  have hpos := (isLaneWidth_of_multiply hW).pos
  refine eq_of_laneNums (isLaneWidth_two_mul hW) fun j hj => ?_
  obtain ⟨ha, hb⟩ := hodd (2 * j + 1) (odd_lt_laneCount hW hj) (Nat.mul_add_mod 2 j 1)
  rw [laneNum_mull hpos a b hj, laneNum_mull hpos a' b' hj, ha, hb]

theorem mull_comm {W : Nat} (hW : W ∈ [8, 16, 32]) (a b : Word) : mull W a b = mull W b a := by
  have hpos := (isLaneWidth_of_multiply hW).pos
  refine eq_of_laneNums (isLaneWidth_two_mul hW) fun j hj => ?_
  rw [laneNum_mull hpos a b hj, laneNum_mull hpos b a hj, Nat.mul_comm]

theorem mull_zero {W : Nat} (hW : W ∈ [8, 16, 32]) (a : Word) : mull W a 0 = 0 := by
  have hpos := (isLaneWidth_of_multiply hW).pos
  refine eq_of_laneNums (isLaneWidth_two_mul hW) fun j hj => ?_
  rw [laneNum_mull hpos a 0 hj, laneNum_zero, laneNum_zero, Nat.mul_zero]

theorem laneNum_mull_ones {W : Nat} (hW : W ∈ [8, 16, 32]) (a : Word) {j : Nat} (hj : j < laneCount (2 * W)) :
    laneNum (2 * W) (mull W a (oneInEveryLane W)) j = laneNum W a (2 * j + 1) := by
  have hpos := (isLaneWidth_of_multiply hW).pos
  rw [laneNum_mull hpos a _ hj, laneNum_oneInEveryLane hpos (odd_lt_laneCount hW hj), Nat.mul_one]

/-- A doubled lane whose number fits its even half holds 0 in its odd half. -/
theorem halves_of_laneNum_two_mul {W n : Nat} {x : Word} {j : Nat} (h : laneNum (2 * W) x j = n) (hn : n < 2 ^ W) :
    laneNum W x (2 * j + 1) = 0 ∧ laneNum W x (2 * j) = n := by
  rw [laneNum_two_mul] at h
  have hodd : laneNum W x (2 * j + 1) = 0 := by
    by_contra hne
    have := Nat.le_mul_of_pos_right (2 ^ W) (Nat.pos_of_ne_zero hne)
    omega
  rw [hodd] at h
  exact ⟨hodd, by omega⟩

/-! ### The operations -/

theorem exec_multiply_congr_odd {i : Instr} (hkind : i.kind = .mull) (s s' : State)
    (hodd : ∀ k < laneCount i.width.bits, k % 2 = 1 → laneNum i.width.bits s.a k = laneNum i.width.bits s'.a k ∧
      laneNum i.width.bits s.b k = laneNum i.width.bits s'.b k) :
    ∃ t t', exec i s = .next t ∧ exec i s' = .next t' ∧ t.outputs = t'.outputs := by
  refine ⟨_, _, exec_of_kind_mull hkind s, exec_of_kind_mull hkind s', ?_⟩
  rw [State.driveOne_outputs, State.driveOne_outputs, mull_congr_odd (bits_mem_of_kind_mull hkind) hodd]

/-! ### The obligations -/

/-- Settles O37: each product is of the odd lanes of its pair; the rule's illustrations by evaluation. -/
theorem evenLanesAreIgnored : Obligations.EvenLanesAreIgnored := by
  refine ⟨fun p hp s s' hodd => ?_, by decide, by decide, by decide⟩
  simp only [List.mem_cons, List.not_mem_nil, or_false] at hp
  rcases hp with rfl | rfl | rfl
  all_goals exact exec_multiply_congr_odd rfl s s' hodd

/-- Settles O38: each law holds of the products in the doubled lanes, and a product with 1 fits the even half of its own. -/
theorem multiplyLaws : Obligations.MultiplyLaws := by
  intro W hW a b
  have hpos := (isLaneWidth_of_multiply hW).pos
  have hpairs : 32 / W = laneCount (2 * W) := by
    rw [laneCount_two_mul, Nat.div_div_eq_div_mul, Nat.mul_comm, ← Nat.div_div_eq_div_mul]
  rw [hpairs]
  refine ⟨mull_comm hW a b, mull_zero hW a, fun j hj => ?_, fun j hj => laneNum_mull hpos a b hj⟩
  have hone := laneNum_mull_ones hW a hj
  exact ⟨hone, halves_of_laneNum_two_mul hone (laneNum_lt W a _)⟩

end Sys2Proof.Machine
end

section
/-!
PROOFS. The statements of 30_encoding.md R58 on host-program steps: what a step stores, what it leaves alone, and when it
faults.
-/

namespace Sys2Proof.Machine

/-! ### The result a step samples (30_encoding.md R62) -/

theorem result_calculate_of_one {i : Instr} (h : i.kind.returnsTwo = false) (a b : Word) :
    (calculate a b (encode i)).result = some (.one (calculate a b (encode i)).y0) := by
  rw [calculate_encode]
  cases hkind : i.kind with
  | add | adds | mull => rfl
  | inc | incs =>
    rw [hkind] at h
    cases h

theorem result_calculate_of_returnsTwo {i : Instr} (h : i.kind.returnsTwo = true) (a b : Word) :
    (calculate a b (encode i)).result =
      some (.two (calculate a b (encode i)).y0 (calculate a b (encode i)).y1) := by
  rw [calculate_of_returnsTwo h]
  rfl

theorem illegal_of_result_calculate_none {a b : Word} {op : OpCode} (h : (calculate a b op).result = none) :
    0x13 ≤ op.toNat := by
  obtain hill | ⟨i, -, rfl⟩ := illegal_or_encode op
  · exact hill
  cases htwo : i.kind.returnsTwo with
  | false => simp [result_calculate_of_one htwo] at h
  | true => simp [result_calculate_of_returnsTwo htwo] at h

/-! ### What a step leaves -/

/-- A step that completes has stored the result of `calc` on the operands it read, and the ALU holds its inputs. -/
theorem hostStep_eq_next {p : HostStep} {h : HostState} {r : CalculationResult} {vars : List (Nat × Word)}
    (hresult : (calculate (p.invocation h.vars).a (p.invocation h.vars).b p.code).result = some r)
    (hstore : p.store r h.vars = some vars) :
    hostStep p h =
      .next ⟨vars, h.alu.driveInputs (p.invocation h.vars).a (p.invocation h.vars).b p.code⟩ := by
  have hcode : (p.invocation h.vars).op = p.code := rfl
  simp only [hostStep, invoke_eq_driveInputs, State.driveInputs_outputs, hcode, hresult, hstore]

theorem hostStep_one_of_result {h : HostState} {d : Nat} {i : Instr} {x y : Operand} {v : Word}
    (hresult : (calculate (x.value h.vars) (y.value h.vars) (encode i)).result = some (.one v)) :
    hostStep (.one d i x y) h =
      .next ⟨writeVar d v h.vars, h.alu.driveInputs (x.value h.vars) (y.value h.vars) (encode i)⟩ :=
  hostStep_eq_next (p := .one d i x y) hresult rfl

theorem hostStep_raw_of_result {h : HostState} {d : Nat} {op : OpCode} {x y : Operand} {v : Word}
    (hresult : (calculate (x.value h.vars) (y.value h.vars) op).result = some (.one v)) :
    hostStep (.raw d op x y) h =
      .next ⟨writeVar d v h.vars, h.alu.driveInputs (x.value h.vars) (y.value h.vars) op⟩ :=
  hostStep_eq_next (p := .raw d op x y) hresult rfl

theorem hostStep_two_of_result {h : HostState} {d0 d1 : Nat} {i : Instr} {x y : Operand} {va vb : Word}
    (hresult : (calculate (x.value h.vars) (y.value h.vars) (encode i)).result = some (.two va vb)) :
    hostStep (.two d0 d1 i x y) h =
      .next ⟨writeVar d1 vb (writeVar d0 va h.vars),
        h.alu.driveInputs (x.value h.vars) (y.value h.vars) (encode i)⟩ :=
  hostStep_eq_next (p := .two d0 d1 i x y) hresult rfl

/-- What a step that completes leaves, whatever its form: stored variables, and ports the host has driven. -/
theorem next_of_hostStep {p : HostStep} {h h' : HostState} (hstep : hostStep p h = .next h') :
    (∃ r, p.store r h.vars = some h'.vars) ∧
      h'.alu = h.alu.driveInputs (p.invocation h.vars).a (p.invocation h.vars).b p.code := by
  obtain ⟨t, hinvoke, hcases⟩ := hostStep_cases p h
  rw [invoke_eq_driveInputs, Host.Outcome.next.injEq] at hinvoke
  obtain ⟨-, hfault⟩ | ⟨r, -, -, hrefused⟩ | ⟨r, vars, -, hstore, hnext⟩ := hcases
  · cases hfault.symm.trans hstep
  · cases hrefused.symm.trans hstep
  · cases hnext.symm.trans hstep
    exact ⟨⟨r, hstore⟩, hinvoke.symm⟩

/-- A step faults for one reason: the code it drives on `OP` is illegal (60_exceptions.md R141). -/
theorem illegal_of_hostStep_fault {p : HostStep} {h : HostState} {f : Fault} (hstep : hostStep p h = .fault f) :
    0x13 ≤ p.code.toNat ∧ f = .illegalOperation p.code := by
  obtain ⟨t, hinvoke, hcases⟩ := hostStep_cases p h
  rw [invoke_eq_driveInputs, Host.Outcome.next.injEq] at hinvoke
  subst hinvoke
  obtain ⟨hnone, hfault⟩ | ⟨r, -, -, hrefused⟩ | ⟨r, vars, -, -, hnext⟩ := hcases
  · cases hfault.symm.trans hstep
    exact ⟨illegal_of_result_calculate_none hnone, rfl⟩
  · cases hrefused.symm.trans hstep
  · cases hnext.symm.trans hstep

theorem runProgram_of_fault {p : HostStep} {h : HostState} {f : Fault} (hstep : hostStep p h = .fault f) (k : Nat)
    (ps : List HostStep) : runProgram k h (p :: ps) = .faulted k h.vars f := by
  rw [runProgram, hstep]

/-! ### The obligations -/

/-- Settles O40: either form of the step writes the one result, and nothing but its destination. -/
theorem oneResultHostStep : Obligations.OneResultHostStep := by
  intro h d i x y hone
  have hresult := result_calculate_of_one hone (x.value h.vars) (y.value h.vars)
  exact ⟨_, hostStep_one_of_result hresult, hostStep_raw_of_result hresult, readVar_writeVar_same d _ _,
    fun _ hk => readVar_writeVar_other hk _ _, rfl, rfl, rfl⟩

/-- Settles O41: the second store leaves the first result standing, because the destinations differ. -/
theorem twoResultHostStep : Obligations.TwoResultHostStep := by
  intro h d0 d1 i x y htwo hne
  have hresult := result_calculate_of_returnsTwo htwo (x.value h.vars) (y.value h.vars)
  refine ⟨_, hostStep_two_of_result hresult, ?_, readVar_writeVar_same d1 _ _, fun k hk0 hk1 => ?_, rfl, rfl, rfl⟩
  · rw [readVar_writeVar_other hne, readVar_writeVar_same]
  · rw [readVar_writeVar_other hk1, readVar_writeVar_other hk0]

/-- Settles O42: a store keeps the listing canonical, and driven ports conform. -/
theorem hostStepKeepsCanonicalVars : Obligations.HostStepKeepsCanonicalVars := by
  intro p h h' hrise hstep
  obtain ⟨⟨r, hstore⟩, halu⟩ := next_of_hostStep hstep
  refine ⟨store_varsRise hstore hrise, ?_⟩
  rw [halu]
  exact portsConform_of_outputsFollow (outputsFollow_driveInputs h.alu _ _ _)

/-- Settles O43: of the three things a step can do it faults only where there is no result, which is on illegal codes. -/
theorem hostFaultsOnlyOnIllegalCodes : Obligations.HostFaultsOnlyOnIllegalCodes := by
  intro p h f hstep
  obtain ⟨hill, hreason⟩ := illegal_of_hostStep_fault hstep
  exact ⟨hreason, hill, runProgram_of_fault hstep⟩

end Sys2Proof.Machine
end

section
/-!
PROOFS. The statement of 70_reset_and_hazards.md on the rendering of values: the 16 digits and what they determine.
-/

namespace Sys2Proof.Machine

/-! ### One digit (70_reset_and_hazards.md R168) -/

theorem hexDigit_eq_getElem? : ∀ n : BitVec 4,
    some (hexDigit n) =
      ['0', '1', '2', '3', '4', '5', '6', '7', '8', '9', 'A', 'B', 'C', 'D', 'E', 'F'][n.toNat]? := by decide

theorem hexDigit_injective : ∀ m n : BitVec 4, hexDigit m = hexDigit n → m = n := by decide

theorem toNat_nibbleFromLeft (x : Word) (k : Nat) : (nibbleFromLeft x k).toNat = field x (60 - 4 * k) 4 := by
  rw [nibbleFromLeft, BitVec.extractLsb'_toNat, Nat.shiftRight_eq_div_pow, field]

/-- Bit `k` of a value stands in the nibble that is `k / 4` from the right. -/
theorem getLsbD_eq_nibbleFromLeft (x : Word) {k : Nat} (hk : k < 64) :
    x.getLsbD k = (nibbleFromLeft x (15 - k / 4)).getLsbD (k % 4) := by
  have hbit : 60 - 4 * (15 - k / 4) + k % 4 = k := by omega
  rw [nibbleFromLeft, BitVec.getLsbD_extractLsb', hbit, decide_eq_true (Nat.mod_lt k (by decide)), Bool.true_and]

theorem eq_of_nibblesFromLeft {x y : Word} (h : ∀ k < 16, nibbleFromLeft x k = nibbleFromLeft y k) : x = y := by
  refine BitVec.eq_of_getLsbD_eq fun k hk => ?_
  rw [getLsbD_eq_nibbleFromLeft x hk, getLsbD_eq_nibbleFromLeft y hk, h _ (by omega)]

/-! ### The 16 digits -/

theorem toList_render (x : Word) : (render x).toList = renderDigits x :=
  String.toList_ofList

theorem length_render (x : Word) : (render x).length = 16 := by
  rw [← String.length_toList, toList_render, renderDigits, List.length_map, List.length_range]

theorem getElem?_render (x : Word) {k : Nat} (hk : k < 16) :
    (render x).toList[k]? = some (hexDigit (nibbleFromLeft x k)) := by
  rw [toList_render, renderDigits, List.getElem?_map, List.getElem?_range hk, Option.map_some]

theorem render_injective {x y : Word} (h : render x = render y) : x = y := by
  refine eq_of_nibblesFromLeft fun k hk => hexDigit_injective _ _ ?_
  have hdigit := getElem?_render x hk
  rw [h, getElem?_render y hk, Option.some.injEq] at hdigit
  exact hdigit.symm

/-! ### The obligation -/

/-- Settles O45: a digit determines its nibble, and the 16 nibbles determine the value. -/
theorem renderingIsExact : Obligations.RenderingIsExact := by
  refine ⟨fun x => ⟨length_render x, fun k hk => ?_⟩, fun _ _ => render_injective⟩
  rw [getElem?_render x hk, hexDigit_eq_getElem?, toNat_nibbleFromLeft]

end Sys2Proof.Machine
end
